-- ==== Sys2Proof/Word.lean ====
section
/-! DEFINITION. The word types of the core: bytes, 24-bit addresses, 32-bit words, operand indices, and the four
widths at which an integer form works (00_scope.md R7, R8). -/

namespace Sys2Proof

/-- One byte of memory, or one byte cell of a register bank. -/
abbrev Byte := BitVec 8

/-- A 32-bit value: `IPO`, `FLAG`, a call-stack entry, a `HMEM` key or value, a binary32 pattern. -/
abbrev Word := BitVec 32

/-- A 24-bit data address (20_memory.md R82). -/
abbrev Addr := BitVec 24

/-- A 5-bit integer register index (10_state.md R31). -/
abbrev RegIx := BitVec 5

/-- A 4-bit float register index (10_state.md R39). -/
abbrev FloatIx := BitVec 4

/-- A flag index, 0 to 31 (30_encoding.md R117). -/
abbrev FlagIx := BitVec 5

/-- The semantic width `W` of an integer form (10_state.md R31, 30_encoding.md R132). -/
inductive Width where
  | w8 | w16 | w24 | w32
deriving DecidableEq, Repr, Inhabited

/-- `W` in bits. -/
abbrev Width.bits : Width → Nat
  | .w8 => 8
  | .w16 => 16
  | .w24 => 24
  | .w32 => 32

/-- `W/8`, the number of bytes. -/
abbrev Width.bytes : Width → Nat
  | .w8 => 1
  | .w16 => 2
  | .w24 => 3
  | .w32 => 4

/-- `MEM_SIZE`, 2^24 bytes (00_scope.md R7, D9). -/
abbrev memSize : Nat := 16777216

end Sys2Proof
end

