-- ==== Sys2Proof/Config.lean ====
section
/-! DEFINITION. What an implementation fixes and what the spec leaves open: the OPEN parameters of 00_scope.md R7 as
plain data (`Params`), the encoding tables `OPC`, `VAR`, `CLASS` (30_encoding.md R111, R112, R129) as plain data
(`Encoding`), and the free values (constants without a body: nothing is known of them). -/

namespace Sys2Proof

/-- `REG_LAYOUT` (10_state.md R33, D2). -/
inductive RegLayout where
  | byteOverlap | cell32
deriving DecidableEq, Repr, Inhabited

/-- `OVF_BIT`: the flag bit the float range check writes, 3 or 4 (44_float.md R323, D8). -/
inductive OvfBit where
  | bit3 | bit4
deriving DecidableEq, Repr, Inhabited

/-- The flag index an `OvfBit` names. -/
abbrev OvfBit.index : OvfBit → FlagIx
  | .bit3 => 3
  | .bit4 => 4

/-- `BIT_SENSE`: how BIT reports the tested bit (42_shift_bit.md R247, D27). -/
inductive BitSense where
  | bitValue | zeroTest
deriving DecidableEq, Repr, Inhabited

/-- `BITVIEW_ORDER`: the bit order of GETBITS and SETBITS (42_shift_bit.md R248, D28). -/
inductive BitviewOrder where
  | msbFirst | lsbFirst
deriving DecidableEq, Repr, Inhabited

/-- `MEMC_OVERLAP`: how MEMC copies overlapping blocks (45_bulk_memory.md R351, D35). -/
inductive MemcOverlap where
  | forwardBytewise | memmove
deriving DecidableEq, Repr, Inhabited

/-- One entry of the OPEN table `VAR`: a form matches the sub-opcode `S` when `S >> k = v` (30_encoding.md R112). -/
structure VarCode where
  k : Nat
  v : Nat
deriving DecidableEq, Repr, Inhabited

/-- What the OPEN tables say of one family: its primary byte (`OPC`), the `VAR` entries of its forms in the order of
the opcode table, and the sub-opcodes that `CLASS` lists as misses, as ranges first–last (30_encoding.md R129). -/
structure FamilyCode where
  opc : Byte
  codes : List VarCode
  misses : List (Nat × Nat)
deriving DecidableEq, Repr, Inhabited

/-- The OPEN tables `OPC`, `VAR`, `CLASS`: one entry a family, in the order of `Family.all`, and the primary bytes
that `CLASS` lists as misses, as ranges first–last (30_encoding.md R129). -/
structure Encoding where
  families : List FamilyCode
  primaryMisses : List (Nat × Nat)
deriving DecidableEq, Repr, Inhabited

/-- The implementation and launch parameters of 00_scope.md R7. "The model takes [them] as an argument": they travel
with the state and no step writes them. -/
structure Params where
  /-- `NUM_INT_REGS`, at most 32 (10_state.md R32, D3). -/
  numIntRegs : Fin 33
  /-- `REG_LAYOUT` (D2). -/
  regLayout : RegLayout
  /-- `NUM_BANKS` (10_state.md R38, D4). -/
  numBanks : Nat
  /-- `BANK_AT_RESET` (10_state.md R53, D6). -/
  bankAtReset : Nat
  /-- `OVF_BIT` (D8). -/
  ovfBit : OvfBit
  /-- `BIT_FLAG` (D27). -/
  bitFlag : FlagIx
  /-- `BIT_SENSE` (D27). -/
  bitSense : BitSense
  /-- `CALL_STACK_DEPTH` (10_state.md R47, D22). -/
  callStackDepth : Nat
  /-- `HMEM_CLEARED_ON_RESET` (10_state.md R53, D40). -/
  hmemClearedOnReset : Bool
  /-- `BITVIEW_ORDER` (D28). -/
  bitviewOrder : BitviewOrder
  /-- `MEMC_OVERLAP` (D35). -/
  memcOverlap : MemcOverlap
  /-- `HOST_MEM_FOOTPRINT` as address ranges first–last (46_misc_system.md R392, D43). -/
  hostMemFootprint : List (Nat × Nat)
  /-- `ENTRY` (D6). -/
  entry : Word
  /-- `IMAGE`: the bytes the loader placed (D6). -/
  image : List (Nat × Byte)
  /-- `OPC`, `VAR`, `CLASS` (D13, D14, D15). -/
  encoding : Encoding
  /-- The model's own parameter (log 3): after a reset every register and flag is UNDEF, as 10_state.md R53 says (`true`), or
  defined with the value 0 (`false`). -/
  undefAtReset : Bool
deriving DecidableEq, Repr, Inhabited

/-! ## Free values: constants without a body -/

/-- The `n`-th free value: the content of every UNDEF result and every `draw` of the spec that is a word or part of one
(00_scope.md R11, 60_exceptions.md R425). -/
opaque Config.freeWord : Nat → Word

/-- RAND's value: a `draw` (46_misc_system.md R383), from the RNG state and the draw counter. -/
opaque Config.randValue : Word → Nat → Word

/-- "any state": the RNG state after a reseed (46_misc_system.md R384), from the seed and the draw counter. -/
opaque Config.randState : Word → Nat → Word

/-! ### Numerics configuration (44_float.md R324): used only where the laws of that rule fix nothing -/

/-- `fsqrt` where no exact root is a binary32 value. -/
opaque Config.fsqrt : Word → Word

/-- `fcbrt` where no exact cube root is a binary32 value. -/
opaque Config.fcbrt : Word → Word

/-- `fpow(y, x)` outside the law of R324. -/
opaque Config.fpow : Word → Word → Word

/-- `fsin` of anything but a zero. -/
opaque Config.fsin : Word → Word

/-- `fround` of a NaN or an infinity, and (its sign bit) the sign of a zero result. -/
opaque Config.fround : Word → Word

/-- `fround` at a tie `k + 0.5`: whether the magnitude goes up. -/
opaque Config.froundTieUp : Word → Bool

/-- `fmin` with a NaN operand, and (its sign bit) the sign of the minimum of two zeros of different sign. -/
opaque Config.fmin : Word → Word → Word

/-- `fmax` with a NaN operand, and (its sign bit) the sign of the maximum of two zeros of different sign. -/
opaque Config.fmax : Word → Word → Word

/-- `cvtU2F(u, W)` for `u >= 2^24` (44_float.md R322). -/
opaque Config.cvtU2F : Width → Word → Word

/-- Which NaN FLOOR gives for a NaN (44_float.md R329): used only when it is a NaN. -/
opaque Config.floorNaN : Word → Word

end Sys2Proof
end

