-- ==== Sys2Proof/Syntax.lean ====
section
/-! DEFINITION. The syntax: the 48 families of 30_encoding.md R135 and one constructor of `Instr` for each row of
opcode_table.json. Operands are the fields a form uses (30_encoding.md R115 to R128), the destination (or first operand)
first; the bits a form ignores (R118) are not part of the syntax. Names: `a`, `b`, `c` are the register fields `A`, `B`,
`C`; `fa`, `fb` float register fields (`fb` is `B[3:0]` in an integer-and-float form, R114); `imm` an immediate; `addr` an
`ADDR24`; `r`, `flag` the S5 field `F`; `off` an `OFF24`. -/

namespace Sys2Proof

/-- The families of 30_encoding.md R135, in the order of opcode_table.json (`brk` is BREAK). -/
inductive Family where
  | and | or | xor | nor | min | max | inc | dec | inv | sl | sr | rl
  | rr | set | res | bit | getbits | setbits | jp | jr | call | callr | ret | retif
  | scp | sqr | cbr | pow | sin | floor | round | memc | memf | find | ldregs | stregs
  | ex | banksel | rand | wait | setvar | getvar | smul | play | vcl | vdl | int | brk
deriving DecidableEq, Repr, Inhabited

/-- Every family, in order. -/
def Family.all : List Family :=
  [.and, .or, .xor, .nor, .min, .max, .inc, .dec, .inv, .sl, .sr, .rl,
   .rr, .set, .res, .bit, .getbits, .setbits, .jp, .jr, .call, .callr, .ret, .retif,
   .scp, .sqr, .cbr, .pow, .sin, .floor, .round, .memc, .memf, .find, .ldregs, .stregs,
   .ex, .banksel, .rand, .wait, .setvar, .getvar, .smul, .play, .vcl, .vdl, .int, .brk]

/-- The position of a family in `Family.all`. -/
def Family.index (m : Family) : Nat := m.ctorIdx

/-- How many forms of a family are selected by a sub-opcode (30_encoding.md R135). BREAK has no sub-opcode (R110) and the
forms of PLAY are not in the source (R389). -/
def Family.formCount : Family → Nat
  | .min | .max => 37
  | .and | .or | .xor | .nor | .scp => 32
  | .sqr | .cbr | .pow | .sin | .floor | .round => 13
  | .inc | .dec => 12
  | .sl | .sr | .rl | .rr | .set | .res | .bit | .getbits | .setbits | .memc | .memf | .smul => 8
  | .rand => 6
  | .inv | .find | .ex | .setvar => 4
  | .jp | .call => 3
  | .ldregs | .stregs | .banksel | .wait | .getvar | .vcl | .vdl => 2
  | .jr | .callr | .ret | .retif | .int => 1
  | .play | .brk => 0

/-- The variant shift `k` of a family's formats: 5 for S5, 2 for M2, M3 and F2 (30_encoding.md R112, R115). -/
def Family.shift : Family → Nat
  | .jp | .jr | .call | .callr | .ret | .retif | .banksel | .wait | .vcl | .vdl | .int => 5
  | .and | .or | .xor | .nor | .min | .max | .inc | .dec | .inv | .sl | .sr | .rl | .rr | .set | .res | .bit | .getbits | .setbits | .scp | .sqr | .cbr | .pow | .sin | .floor | .round | .memc | .memf | .find | .ldregs | .stregs | .ex | .rand | .setvar | .getvar | .smul | .play | .brk => 2

/-- The instructions: one constructor per row of opcode_table.json. -/
inductive Instr where
  -- AND: R201; shapes R120
  | andRR8 (a b : RegIx)
  | andRR16 (a b : RegIx)
  | andRR24 (a b : RegIx)
  | andRR32 (a b : RegIx)
  | andRI8 (a : RegIx) (imm : BitVec 8)
  | andRI16 (a : RegIx) (imm : BitVec 16)
  | andRI24 (a : RegIx) (imm : BitVec 24)
  | andRI32 (a : RegIx) (imm : BitVec 32)
  | andRMr8 (a b : RegIx)
  | andRMr16 (a b : RegIx)
  | andRMr24 (a b : RegIx)
  | andRMr32 (a b : RegIx)
  | andRMa8 (a : RegIx) (addr : Addr)
  | andRMa16 (a : RegIx) (addr : Addr)
  | andRMa24 (a : RegIx) (addr : Addr)
  | andRMa32 (a : RegIx) (addr : Addr)
  | andMrR8 (a b : RegIx)
  | andMrR16 (a b : RegIx)
  | andMrR24 (a b : RegIx)
  | andMrR32 (a b : RegIx)
  | andMaR8 (addr : Addr) (a : RegIx)
  | andMaR16 (addr : Addr) (a : RegIx)
  | andMaR24 (addr : Addr) (a : RegIx)
  | andMaR32 (addr : Addr) (a : RegIx)
  | andMrI8 (a : RegIx) (imm : BitVec 8)
  | andMrI16 (a : RegIx) (imm : BitVec 16)
  | andMrI24 (a : RegIx) (imm : BitVec 24)
  | andMrI32 (a : RegIx) (imm : BitVec 32)
  | andMaI8 (addr : Addr) (imm : BitVec 8)
  | andMaI16 (addr : Addr) (imm : BitVec 16)
  | andMaI24 (addr : Addr) (imm : BitVec 24)
  | andMaI32 (addr : Addr) (imm : BitVec 32)
  -- OR: R202; shapes R120
  | orRR8 (a b : RegIx)
  | orRR16 (a b : RegIx)
  | orRR24 (a b : RegIx)
  | orRR32 (a b : RegIx)
  | orRI8 (a : RegIx) (imm : BitVec 8)
  | orRI16 (a : RegIx) (imm : BitVec 16)
  | orRI24 (a : RegIx) (imm : BitVec 24)
  | orRI32 (a : RegIx) (imm : BitVec 32)
  | orRMr8 (a b : RegIx)
  | orRMr16 (a b : RegIx)
  | orRMr24 (a b : RegIx)
  | orRMr32 (a b : RegIx)
  | orRMa8 (a : RegIx) (addr : Addr)
  | orRMa16 (a : RegIx) (addr : Addr)
  | orRMa24 (a : RegIx) (addr : Addr)
  | orRMa32 (a : RegIx) (addr : Addr)
  | orMrR8 (a b : RegIx)
  | orMrR16 (a b : RegIx)
  | orMrR24 (a b : RegIx)
  | orMrR32 (a b : RegIx)
  | orMaR8 (addr : Addr) (a : RegIx)
  | orMaR16 (addr : Addr) (a : RegIx)
  | orMaR24 (addr : Addr) (a : RegIx)
  | orMaR32 (addr : Addr) (a : RegIx)
  | orMrI8 (a : RegIx) (imm : BitVec 8)
  | orMrI16 (a : RegIx) (imm : BitVec 16)
  | orMrI24 (a : RegIx) (imm : BitVec 24)
  | orMrI32 (a : RegIx) (imm : BitVec 32)
  | orMaI8 (addr : Addr) (imm : BitVec 8)
  | orMaI16 (addr : Addr) (imm : BitVec 16)
  | orMaI24 (addr : Addr) (imm : BitVec 24)
  | orMaI32 (addr : Addr) (imm : BitVec 32)
  -- XOR: R203; shapes R120
  | xorRR8 (a b : RegIx)
  | xorRR16 (a b : RegIx)
  | xorRR24 (a b : RegIx)
  | xorRR32 (a b : RegIx)
  | xorRI8 (a : RegIx) (imm : BitVec 8)
  | xorRI16 (a : RegIx) (imm : BitVec 16)
  | xorRI24 (a : RegIx) (imm : BitVec 24)
  | xorRI32 (a : RegIx) (imm : BitVec 32)
  | xorRMr8 (a b : RegIx)
  | xorRMr16 (a b : RegIx)
  | xorRMr24 (a b : RegIx)
  | xorRMr32 (a b : RegIx)
  | xorRMa8 (a : RegIx) (addr : Addr)
  | xorRMa16 (a : RegIx) (addr : Addr)
  | xorRMa24 (a : RegIx) (addr : Addr)
  | xorRMa32 (a : RegIx) (addr : Addr)
  | xorMrR8 (a b : RegIx)
  | xorMrR16 (a b : RegIx)
  | xorMrR24 (a b : RegIx)
  | xorMrR32 (a b : RegIx)
  | xorMaR8 (addr : Addr) (a : RegIx)
  | xorMaR16 (addr : Addr) (a : RegIx)
  | xorMaR24 (addr : Addr) (a : RegIx)
  | xorMaR32 (addr : Addr) (a : RegIx)
  | xorMrI8 (a : RegIx) (imm : BitVec 8)
  | xorMrI16 (a : RegIx) (imm : BitVec 16)
  | xorMrI24 (a : RegIx) (imm : BitVec 24)
  | xorMrI32 (a : RegIx) (imm : BitVec 32)
  | xorMaI8 (addr : Addr) (imm : BitVec 8)
  | xorMaI16 (addr : Addr) (imm : BitVec 16)
  | xorMaI24 (addr : Addr) (imm : BitVec 24)
  | xorMaI32 (addr : Addr) (imm : BitVec 32)
  -- NOR: R204; shapes R120
  | norRR8 (a b : RegIx)
  | norRR16 (a b : RegIx)
  | norRR24 (a b : RegIx)
  | norRR32 (a b : RegIx)
  | norRI8 (a : RegIx) (imm : BitVec 8)
  | norRI16 (a : RegIx) (imm : BitVec 16)
  | norRI24 (a : RegIx) (imm : BitVec 24)
  | norRI32 (a : RegIx) (imm : BitVec 32)
  | norRMr8 (a b : RegIx)
  | norRMr16 (a b : RegIx)
  | norRMr24 (a b : RegIx)
  | norRMr32 (a b : RegIx)
  | norRMa8 (a : RegIx) (addr : Addr)
  | norRMa16 (a : RegIx) (addr : Addr)
  | norRMa24 (a : RegIx) (addr : Addr)
  | norRMa32 (a : RegIx) (addr : Addr)
  | norMrR8 (a b : RegIx)
  | norMrR16 (a b : RegIx)
  | norMrR24 (a b : RegIx)
  | norMrR32 (a b : RegIx)
  | norMaR8 (addr : Addr) (a : RegIx)
  | norMaR16 (addr : Addr) (a : RegIx)
  | norMaR24 (addr : Addr) (a : RegIx)
  | norMaR32 (addr : Addr) (a : RegIx)
  | norMrI8 (a : RegIx) (imm : BitVec 8)
  | norMrI16 (a : RegIx) (imm : BitVec 16)
  | norMrI24 (a : RegIx) (imm : BitVec 24)
  | norMrI32 (a : RegIx) (imm : BitVec 32)
  | norMaI8 (addr : Addr) (imm : BitVec 8)
  | norMaI16 (addr : Addr) (imm : BitVec 16)
  | norMaI24 (addr : Addr) (imm : BitVec 24)
  | norMaI32 (addr : Addr) (imm : BitVec 32)
  -- MIN: R205, R207, R209; shapes R120, R121
  | minRR8 (a b : RegIx)
  | minRR16 (a b : RegIx)
  | minRR24 (a b : RegIx)
  | minRR32 (a b : RegIx)
  | minRI8 (a : RegIx) (imm : BitVec 8)
  | minRI16 (a : RegIx) (imm : BitVec 16)
  | minRI24 (a : RegIx) (imm : BitVec 24)
  | minRI32 (a : RegIx) (imm : BitVec 32)
  | minRMr8 (a b : RegIx)
  | minRMr16 (a b : RegIx)
  | minRMr24 (a b : RegIx)
  | minRMr32 (a b : RegIx)
  | minRMa8 (a : RegIx) (addr : Addr)
  | minRMa16 (a : RegIx) (addr : Addr)
  | minRMa24 (a : RegIx) (addr : Addr)
  | minRMa32 (a : RegIx) (addr : Addr)
  | minMrR8 (a b : RegIx)
  | minMrR16 (a b : RegIx)
  | minMrR24 (a b : RegIx)
  | minMrR32 (a b : RegIx)
  | minMaR8 (addr : Addr) (a : RegIx)
  | minMaR16 (addr : Addr) (a : RegIx)
  | minMaR24 (addr : Addr) (a : RegIx)
  | minMaR32 (addr : Addr) (a : RegIx)
  | minMrI8 (a : RegIx) (imm : BitVec 8)
  | minMrI16 (a : RegIx) (imm : BitVec 16)
  | minMrI24 (a : RegIx) (imm : BitVec 24)
  | minMrI32 (a : RegIx) (imm : BitVec 32)
  | minMaI8 (addr : Addr) (imm : BitVec 8)
  | minMaI16 (addr : Addr) (imm : BitVec 16)
  | minMaI24 (addr : Addr) (imm : BitVec 24)
  | minMaI32 (addr : Addr) (imm : BitVec 32)
  | minRF8 (a : RegIx) (fb : FloatIx)
  | minRF16 (a : RegIx) (fb : FloatIx)
  | minRF24 (a : RegIx) (fb : FloatIx)
  | minRF32 (a : RegIx) (fb : FloatIx)
  | minFF (fa fb : FloatIx)
  -- MAX: R206, R208, R210; shapes R120, R121
  | maxRR8 (a b : RegIx)
  | maxRR16 (a b : RegIx)
  | maxRR24 (a b : RegIx)
  | maxRR32 (a b : RegIx)
  | maxRI8 (a : RegIx) (imm : BitVec 8)
  | maxRI16 (a : RegIx) (imm : BitVec 16)
  | maxRI24 (a : RegIx) (imm : BitVec 24)
  | maxRI32 (a : RegIx) (imm : BitVec 32)
  | maxRMr8 (a b : RegIx)
  | maxRMr16 (a b : RegIx)
  | maxRMr24 (a b : RegIx)
  | maxRMr32 (a b : RegIx)
  | maxRMa8 (a : RegIx) (addr : Addr)
  | maxRMa16 (a : RegIx) (addr : Addr)
  | maxRMa24 (a : RegIx) (addr : Addr)
  | maxRMa32 (a : RegIx) (addr : Addr)
  | maxMrR8 (a b : RegIx)
  | maxMrR16 (a b : RegIx)
  | maxMrR24 (a b : RegIx)
  | maxMrR32 (a b : RegIx)
  | maxMaR8 (addr : Addr) (a : RegIx)
  | maxMaR16 (addr : Addr) (a : RegIx)
  | maxMaR24 (addr : Addr) (a : RegIx)
  | maxMaR32 (addr : Addr) (a : RegIx)
  | maxMrI8 (a : RegIx) (imm : BitVec 8)
  | maxMrI16 (a : RegIx) (imm : BitVec 16)
  | maxMrI24 (a : RegIx) (imm : BitVec 24)
  | maxMrI32 (a : RegIx) (imm : BitVec 32)
  | maxMaI8 (addr : Addr) (imm : BitVec 8)
  | maxMaI16 (addr : Addr) (imm : BitVec 16)
  | maxMaI24 (addr : Addr) (imm : BitVec 24)
  | maxMaI32 (addr : Addr) (imm : BitVec 32)
  | maxRF8 (a : RegIx) (fb : FloatIx)
  | maxRF16 (a : RegIx) (fb : FloatIx)
  | maxRF24 (a : RegIx) (fb : FloatIx)
  | maxRF32 (a : RegIx) (fb : FloatIx)
  | maxFF (fa fb : FloatIx)
  -- INC: R211; shapes R122
  | incR8 (a : RegIx)
  | incR16 (a : RegIx)
  | incR24 (a : RegIx)
  | incR32 (a : RegIx)
  | incMr8 (a : RegIx)
  | incMr16 (a : RegIx)
  | incMr24 (a : RegIx)
  | incMr32 (a : RegIx)
  | incMa8 (addr : Addr)
  | incMa16 (addr : Addr)
  | incMa24 (addr : Addr)
  | incMa32 (addr : Addr)
  -- DEC: R212; shapes R122
  | decR8 (a : RegIx)
  | decR16 (a : RegIx)
  | decR24 (a : RegIx)
  | decR32 (a : RegIx)
  | decMr8 (a : RegIx)
  | decMr16 (a : RegIx)
  | decMr24 (a : RegIx)
  | decMr32 (a : RegIx)
  | decMa8 (addr : Addr)
  | decMa16 (addr : Addr)
  | decMa24 (addr : Addr)
  | decMa32 (addr : Addr)
  -- INV: R213; shapes R122
  | invR8 (a : RegIx)
  | invR16 (a : RegIx)
  | invR24 (a : RegIx)
  | invR32 (a : RegIx)
  -- SL: R241; shapes R123
  | slI8 (a : RegIx) (n : Byte)
  | slI16 (a : RegIx) (n : Byte)
  | slI24 (a : RegIx) (n : Byte)
  | slI32 (a : RegIx) (n : Byte)
  | slR8 (a b : RegIx)
  | slR16 (a b : RegIx)
  | slR24 (a b : RegIx)
  | slR32 (a b : RegIx)
  -- SR: R242; shapes R123
  | srI8 (a : RegIx) (n : Byte)
  | srI16 (a : RegIx) (n : Byte)
  | srI24 (a : RegIx) (n : Byte)
  | srI32 (a : RegIx) (n : Byte)
  | srR8 (a b : RegIx)
  | srR16 (a b : RegIx)
  | srR24 (a b : RegIx)
  | srR32 (a b : RegIx)
  -- RL: R243; shapes R123
  | rlI8 (a : RegIx) (n : Byte)
  | rlI16 (a : RegIx) (n : Byte)
  | rlI24 (a : RegIx) (n : Byte)
  | rlI32 (a : RegIx) (n : Byte)
  | rlR8 (a b : RegIx)
  | rlR16 (a b : RegIx)
  | rlR24 (a b : RegIx)
  | rlR32 (a b : RegIx)
  -- RR: R244; shapes R123
  | rrI8 (a : RegIx) (n : Byte)
  | rrI16 (a : RegIx) (n : Byte)
  | rrI24 (a : RegIx) (n : Byte)
  | rrI32 (a : RegIx) (n : Byte)
  | rrR8 (a b : RegIx)
  | rrR16 (a b : RegIx)
  | rrR24 (a b : RegIx)
  | rrR32 (a b : RegIx)
  -- SET: R245; shapes R123
  | setI8 (a : RegIx) (n : Byte)
  | setI16 (a : RegIx) (n : Byte)
  | setI24 (a : RegIx) (n : Byte)
  | setI32 (a : RegIx) (n : Byte)
  | setR8 (a b : RegIx)
  | setR16 (a b : RegIx)
  | setR24 (a b : RegIx)
  | setR32 (a b : RegIx)
  -- RES: R246; shapes R123
  | resI8 (a : RegIx) (n : Byte)
  | resI16 (a : RegIx) (n : Byte)
  | resI24 (a : RegIx) (n : Byte)
  | resI32 (a : RegIx) (n : Byte)
  | resR8 (a b : RegIx)
  | resR16 (a b : RegIx)
  | resR24 (a b : RegIx)
  | resR32 (a b : RegIx)
  -- BIT: R247; shapes R123
  | bitI8 (a : RegIx) (n : Byte)
  | bitI16 (a : RegIx) (n : Byte)
  | bitI24 (a : RegIx) (n : Byte)
  | bitI32 (a : RegIx) (n : Byte)
  | bitR8 (a b : RegIx)
  | bitR16 (a b : RegIx)
  | bitR24 (a b : RegIx)
  | bitR32 (a b : RegIx)
  -- GETBITS: R249; shapes R124
  | getbitsI8 (a b : RegIx) (n : Byte)
  | getbitsI16 (a b : RegIx) (n : Byte)
  | getbitsI24 (a b : RegIx) (n : Byte)
  | getbitsI32 (a b : RegIx) (n : Byte)
  | getbitsR8 (a b c : RegIx)
  | getbitsR16 (a b c : RegIx)
  | getbitsR24 (a b c : RegIx)
  | getbitsR32 (a b c : RegIx)
  -- SETBITS: R250; shapes R124
  | setbitsI8 (a b : RegIx) (n : Byte)
  | setbitsI16 (a b : RegIx) (n : Byte)
  | setbitsI24 (a b : RegIx) (n : Byte)
  | setbitsI32 (a b : RegIx) (n : Byte)
  | setbitsR8 (a b c : RegIx)
  | setbitsR16 (a b c : RegIx)
  | setbitsR24 (a b c : RegIx)
  | setbitsR32 (a b c : RegIx)
  -- JP: R281, R282, R283; shapes R125
  | jpImm (addr : Addr)
  | jpReg (r : RegIx)
  | jpCond (flag : FlagIx) (addr : Addr)
  -- JR: R284; shapes R125
  | jrRel (off : BitVec 24)
  -- CALL: R285, R286, R287; shapes R125
  | callImm (addr : Addr)
  | callReg (r : RegIx)
  | callCond (flag : FlagIx) (addr : Addr)
  -- CALLR: R288; shapes R125
  | callrRel (off : BitVec 24)
  -- RET: R289; shapes R125
  | ret
  -- RETIF: R290; shapes R125
  | retif (flag : FlagIx)
  -- SCP: R293; shapes R120
  | scpRR8 (a b : RegIx)
  | scpRR16 (a b : RegIx)
  | scpRR24 (a b : RegIx)
  | scpRR32 (a b : RegIx)
  | scpRI8 (a : RegIx) (imm : BitVec 8)
  | scpRI16 (a : RegIx) (imm : BitVec 16)
  | scpRI24 (a : RegIx) (imm : BitVec 24)
  | scpRI32 (a : RegIx) (imm : BitVec 32)
  | scpRMr8 (a b : RegIx)
  | scpRMr16 (a b : RegIx)
  | scpRMr24 (a b : RegIx)
  | scpRMr32 (a b : RegIx)
  | scpRMa8 (a : RegIx) (addr : Addr)
  | scpRMa16 (a : RegIx) (addr : Addr)
  | scpRMa24 (a : RegIx) (addr : Addr)
  | scpRMa32 (a : RegIx) (addr : Addr)
  | scpMrR8 (a b : RegIx)
  | scpMrR16 (a b : RegIx)
  | scpMrR24 (a b : RegIx)
  | scpMrR32 (a b : RegIx)
  | scpMaR8 (addr : Addr) (a : RegIx)
  | scpMaR16 (addr : Addr) (a : RegIx)
  | scpMaR24 (addr : Addr) (a : RegIx)
  | scpMaR32 (addr : Addr) (a : RegIx)
  | scpMrI8 (a : RegIx) (imm : BitVec 8)
  | scpMrI16 (a : RegIx) (imm : BitVec 16)
  | scpMrI24 (a : RegIx) (imm : BitVec 24)
  | scpMrI32 (a : RegIx) (imm : BitVec 32)
  | scpMaI8 (addr : Addr) (imm : BitVec 8)
  | scpMaI16 (addr : Addr) (imm : BitVec 16)
  | scpMaI24 (addr : Addr) (imm : BitVec 24)
  | scpMaI32 (addr : Addr) (imm : BitVec 32)
  -- SQR: R325; shapes R126
  | sqrFF (fa fb : FloatIx)
  | sqrFR8 (fb : FloatIx) (a : RegIx)
  | sqrFR16 (fb : FloatIx) (a : RegIx)
  | sqrFR24 (fb : FloatIx) (a : RegIx)
  | sqrFR32 (fb : FloatIx) (a : RegIx)
  | sqrRF8 (a : RegIx) (fb : FloatIx)
  | sqrRF16 (a : RegIx) (fb : FloatIx)
  | sqrRF24 (a : RegIx) (fb : FloatIx)
  | sqrRF32 (a : RegIx) (fb : FloatIx)
  | sqrFMr (fb : FloatIx) (a : RegIx)
  | sqrMrF (a : RegIx) (fb : FloatIx)
  | sqrFMa (fa : FloatIx) (addr : Addr)
  | sqrMaF (addr : Addr) (fa : FloatIx)
  -- CBR: R326; shapes R126
  | cbrFF (fa fb : FloatIx)
  | cbrFR8 (fb : FloatIx) (a : RegIx)
  | cbrFR16 (fb : FloatIx) (a : RegIx)
  | cbrFR24 (fb : FloatIx) (a : RegIx)
  | cbrFR32 (fb : FloatIx) (a : RegIx)
  | cbrRF8 (a : RegIx) (fb : FloatIx)
  | cbrRF16 (a : RegIx) (fb : FloatIx)
  | cbrRF24 (a : RegIx) (fb : FloatIx)
  | cbrRF32 (a : RegIx) (fb : FloatIx)
  | cbrFMr (fb : FloatIx) (a : RegIx)
  | cbrMrF (a : RegIx) (fb : FloatIx)
  | cbrFMa (fa : FloatIx) (addr : Addr)
  | cbrMaF (addr : Addr) (fa : FloatIx)
  -- POW: R327; shapes R126
  | powFF (fa fb : FloatIx)
  | powFR8 (fb : FloatIx) (a : RegIx)
  | powFR16 (fb : FloatIx) (a : RegIx)
  | powFR24 (fb : FloatIx) (a : RegIx)
  | powFR32 (fb : FloatIx) (a : RegIx)
  | powRF8 (a : RegIx) (fb : FloatIx)
  | powRF16 (a : RegIx) (fb : FloatIx)
  | powRF24 (a : RegIx) (fb : FloatIx)
  | powRF32 (a : RegIx) (fb : FloatIx)
  | powFMr (fb : FloatIx) (a : RegIx)
  | powMrF (a : RegIx) (fb : FloatIx)
  | powFMa (fa : FloatIx) (addr : Addr)
  | powMaF (addr : Addr) (fa : FloatIx)
  -- SIN: R328; shapes R126
  | sinFF (fa fb : FloatIx)
  | sinFR8 (fb : FloatIx) (a : RegIx)
  | sinFR16 (fb : FloatIx) (a : RegIx)
  | sinFR24 (fb : FloatIx) (a : RegIx)
  | sinFR32 (fb : FloatIx) (a : RegIx)
  | sinRF8 (a : RegIx) (fb : FloatIx)
  | sinRF16 (a : RegIx) (fb : FloatIx)
  | sinRF24 (a : RegIx) (fb : FloatIx)
  | sinRF32 (a : RegIx) (fb : FloatIx)
  | sinFMr (fb : FloatIx) (a : RegIx)
  | sinMrF (a : RegIx) (fb : FloatIx)
  | sinFMa (fa : FloatIx) (addr : Addr)
  | sinMaF (addr : Addr) (fa : FloatIx)
  -- FLOOR: R329; shapes R126
  | floorFF (fa fb : FloatIx)
  | floorFR8 (fb : FloatIx) (a : RegIx)
  | floorFR16 (fb : FloatIx) (a : RegIx)
  | floorFR24 (fb : FloatIx) (a : RegIx)
  | floorFR32 (fb : FloatIx) (a : RegIx)
  | floorRF8 (a : RegIx) (fb : FloatIx)
  | floorRF16 (a : RegIx) (fb : FloatIx)
  | floorRF24 (a : RegIx) (fb : FloatIx)
  | floorRF32 (a : RegIx) (fb : FloatIx)
  | floorFMr (fb : FloatIx) (a : RegIx)
  | floorMrF (a : RegIx) (fb : FloatIx)
  | floorFMa (fa : FloatIx) (addr : Addr)
  | floorMaF (addr : Addr) (fa : FloatIx)
  -- ROUND: R330; shapes R126
  | roundFF (fa fb : FloatIx)
  | roundFR8 (fb : FloatIx) (a : RegIx)
  | roundFR16 (fb : FloatIx) (a : RegIx)
  | roundFR24 (fb : FloatIx) (a : RegIx)
  | roundFR32 (fb : FloatIx) (a : RegIx)
  | roundRF8 (a : RegIx) (fb : FloatIx)
  | roundRF16 (a : RegIx) (fb : FloatIx)
  | roundRF24 (a : RegIx) (fb : FloatIx)
  | roundRF32 (a : RegIx) (fb : FloatIx)
  | roundFMr (fb : FloatIx) (a : RegIx)
  | roundMrF (a : RegIx) (fb : FloatIx)
  | roundFMa (fa : FloatIx) (addr : Addr)
  | roundMaF (addr : Addr) (fa : FloatIx)
  -- MEMC: R351; shapes R127
  | memcRRR (a b c : RegIx)
  | memcRRI (a b : RegIx) (len : BitVec 24)
  | memcRIR (a : RegIx) (dst : BitVec 24) (c : RegIx)
  | memcRII (a : RegIx) (dst len : BitVec 24)
  | memcIRR (src : BitVec 24) (b c : RegIx)
  | memcIRI (src : BitVec 24) (b : RegIx) (len : BitVec 24)
  | memcIIR (src dst : BitVec 24) (c : RegIx)
  | memcIII (src dst len : BitVec 24)
  -- MEMF: R352; shapes R127
  | memfRRR (a b c : RegIx)
  | memfRRI (a b : RegIx) (len : BitVec 24)
  | memfRIR (a : RegIx) (addr : BitVec 24) (c : RegIx)
  | memfRII (a : RegIx) (addr len : BitVec 24)
  | memfIRR (val : Byte) (b c : RegIx)
  | memfIRI (val : Byte) (b : RegIx) (len : BitVec 24)
  | memfIIR (val : Byte) (addr : BitVec 24) (c : RegIx)
  | memfIII (val : Byte) (addr len : BitVec 24)
  -- FIND: R353, R354; shapes R127
  | findBI (a : RegIx) (n : Byte)
  | findBR (a b : RegIx)
  | findPA (a : RegIx) (addr : Addr)
  | findPR (a b : RegIx)
  -- LDREGS: R355; shapes R127
  | ldregsMa (a b : RegIx) (addr : Addr)
  | ldregsMr (a b c : RegIx)
  -- STREGS: R356; shapes R127
  | stregsMa (a b : RegIx) (addr : Addr)
  | stregsMr (a b c : RegIx)
  -- EX: R381; shapes R128
  | ex8 (a b : RegIx)
  | ex16 (a b : RegIx)
  | ex24 (a b : RegIx)
  | ex32 (a b : RegIx)
  -- BANKSEL: R382; shapes R128
  | bankselI (n : Byte)
  | bankselR (r : RegIx)
  -- RAND: R383, R384; shapes R128
  | rand8 (a : RegIx)
  | rand16 (a : RegIx)
  | rand24 (a : RegIx)
  | rand32 (a : RegIx)
  | randSeedI (seed : Word)
  | randSeedR (a : RegIx)
  -- WAIT: R385; shapes R128
  | waitI (ms : BitVec 16)
  | waitR (r : RegIx)
  -- SETVAR: R386; shapes R128
  | setvarII (index value : Word)
  | setvarRI (a : RegIx) (value : Word)
  | setvarIR (index : Word) (b : RegIx)
  | setvarRR (a b : RegIx)
  -- GETVAR: R387; shapes R128
  | getvarI (a : RegIx) (index : Word)
  | getvarR (a b : RegIx)
  -- SMUL: R388; shapes R128
  | smulRR8 (a b : RegIx)
  | smulRR16 (a b : RegIx)
  | smulRR24 (a b : RegIx)
  | smulRR32 (a b : RegIx)
  | smulRI8 (a : RegIx) (imm : BitVec 8)
  | smulRI16 (a : RegIx) (imm : BitVec 16)
  | smulRI24 (a : RegIx) (imm : BitVec 24)
  | smulRI32 (a : RegIx) (imm : BitVec 32)
  -- PLAY: R389; shapes R128
  | play
  -- VCL: R390; shapes R128
  | vclI (n : Byte)
  | vclR (r : RegIx)
  -- VDL: R391; shapes R128
  | vdlI (n : Byte)
  | vdlR (r : RegIx)
  -- INT: R393; shapes R128
  | int (r : RegIx) (n arg : Byte)
  -- BREAK: R394; shapes R128
  | brk
deriving DecidableEq, Repr, Inhabited

end Sys2Proof
end

