-- ==== Sys2Proof/WellFormed.lean ====
section
/-! DEFINITION. What is well formed: an instruction (it has an encoding in the spec), the OPEN encoding tables
(30_encoding.md R111, R112, R129), and the launch parameters (10_state.md R38, R53). -/

namespace Sys2Proof

/-- An instruction with an encoding the spec gives: every one but PLAY, whose operand layout is not in the source
(46_misc_system.md R389). Every operand of the others is a field of exactly its width, so nothing else can be wrong. -/
def Instr.wellFormed (i : Instr) : Bool := i != .play

/-- Is `n` in one of the ranges first–last? -/
def inRanges (rs : List (Nat × Nat)) (n : Nat) : Bool := rs.any (fun r => decide (r.1 ≤ n ∧ n ≤ r.2))

/-- One table entry for each family. -/
def Encoding.complete (e : Encoding) : Bool := e.families.length == Family.all.length

/-- "`OPC` is injective (one byte, one family)" (30_encoding.md R111). -/
def Encoding.opcInjective (e : Encoding) : Bool := decide ((e.families.map FamilyCode.opc).Nodup)

/-- Each family has one `VAR` entry a form (30_encoding.md R112). -/
def Encoding.counts (e : Encoding) : Bool :=
  (Family.all.zip e.families).all (fun p => p.2.codes.length == p.1.formCount)

/-- Each `VAR` entry has the variant shift of its format and `0 <= v < 2^(8-k)` (30_encoding.md R112, R115). -/
def Encoding.ranges (e : Encoding) : Bool :=
  (Family.all.zip e.families).all (fun p => p.2.codes.all (fun c => c.k == p.1.shift && decide (c.v < 2 ^ (8 - c.k))))

/-- "No two forms of one family match the same `S`" (30_encoding.md R129): with one shift a family, distinct values. -/
def Encoding.formsDistinct (e : Encoding) : Bool := e.families.all (fun f => decide (f.codes.Nodup))

/-- "No value is both a form and a `Miss`" (30_encoding.md R129), for sub-opcodes: no range of misses meets the
sub-opcodes `v * 2^k .. v * 2^k + 2^k - 1` of a form. -/
def Encoding.subMissesApart (e : Encoding) : Bool :=
  e.families.all (fun f => f.codes.all (fun c => f.misses.all
    (fun r => decide (r.2 < c.v * 2 ^ c.k ∨ c.v * 2 ^ c.k + 2 ^ c.k ≤ r.1))))

/-- No primary byte is both a family's and a `Miss` (30_encoding.md R129). -/
def Encoding.primaryMissesApart (e : Encoding) : Bool :=
  e.families.all (fun f => !inRanges e.primaryMisses f.opc.toNat)

/-- The tables are well formed (30_encoding.md R129). -/
def Encoding.wellFormed (e : Encoding) : Bool :=
  e.complete && e.opcInjective && e.counts && e.ranges && e.formsDistinct && e.subMissesApart && e.primaryMissesApart

/-- The bank the machine starts in exists (10_state.md R38, R53). -/
def Params.bankExists (p : Params) : Bool := decide (p.bankAtReset < p.numBanks)

/-- The launch parameters are well formed. -/
def Params.wellFormed (p : Params) : Bool := p.bankExists && p.encoding.wellFormed

end Sys2Proof
end

