-- ==== Sys2Proof/Decode.lean ====
section
/-! DEFINITION. The decoder and the encoder (30_encoding.md): byte order, the formats and their fields, every form's
layout, the classification of byte values by the OPEN tables, decoding of any bytes, and encoding of an instruction. The
tables are an argument; `teaEncoding` is the spec's illustrative assignment (92_eei_decisions.md D50).

`noncomputable` below: Lean's code generator has no runtime tag for a constructor with fields past the 244th, and `Instr`
has 481, so no machine code is made for a function that builds one. The kernel evaluates all of them. -/

namespace Sys2Proof

/-! ## Byte order (20_memory.md R83: the byte at the lowest address is the most significant) -/

/-- The number that big-endian bytes spell. -/
def beToNat (bs : List Byte) : Nat := bs.foldl (fun acc b => acc * 256 + b.toNat) 0

/-- The `n` big-endian bytes of `v mod 256^n`. -/
def natToBe : Nat → Nat → List Byte
  | 0, _ => []
  | n + 1, v => natToBe n (v / 256) ++ [BitVec.ofNat 8 v]

/-! ## Formats and fields (R113 to R118) -/

/-- The formats of 30_encoding.md R115. -/
inductive Format where
  | p | s5 | m2 | m3 | f2
deriving DecidableEq, Repr, Inhabited

/-- The bytes of a format before the trailing fields, the primary opcode included (R115). -/
def Format.bytes : Format → Nat
  | .p => 1
  | .s5 => 2
  | .m2 => 3
  | .m3 => 4
  | .f2 => 3

/-- The fields of an instruction: `f` of S5; `a`, `b`, `c` of M2 and M3; `fa`, `fb` of F2; the trailing fields in order
(R115, R116). A field its format does not have is 0. -/
structure Fields where
  f : RegIx := 0
  a : RegIx := 0
  b : RegIx := 0
  c : RegIx := 0
  fa : FloatIx := 0
  fb : FloatIx := 0
  imms : List Nat := []
deriving DecidableEq, Repr, Inhabited

/-- The `k`-th trailing field as an `n`-bit value (R117: neither scaled nor shifted). -/
def Fields.imm (f : Fields) (k : Nat) {n : Nat} : BitVec n := BitVec.ofNat n (f.imms.getD k 0)

/-- One form: its format, the byte counts of its trailing fields, and the instruction its fields make. -/
structure Row where
  fmt : Format
  trail : List Nat
  build : Fields → Instr

/-- A form's length in bytes, the primary opcode included (R120 to R128). -/
def Row.length (r : Row) : Nat := r.fmt.bytes + r.trail.sum

/-- The mixed register byte (R113): `A = S[1:0] ++ B2[7:5]`. -/
def mixedA (s b2 : Byte) : RegIx := (s.extractLsb' 0 2 ++ b2.extractLsb' 5 3 : BitVec 5)

/-- The mixed register byte (R113): `B = B2[4:0]`. -/
def mixedB (b2 : Byte) : RegIx := b2.extractLsb' 0 5

/-- The format's register fields, from the sub-opcode and the bytes after it, and the bytes left for the trailing
fields (R115); none where the bytes run out. -/
def readFormat : Format → Byte → List Byte → Option (Fields × List Byte)
  | .p, _, bs => some (default, bs)
  | .s5, s, bs => some ({ f := s.extractLsb' 0 5 }, bs)
  | .m2, s, b2 :: bs => some ({ a := mixedA s b2, b := mixedB b2 }, bs)
  | .m3, s, b2 :: b3 :: bs => some ({ a := mixedA s b2, b := mixedB b2, c := b3.extractLsb' 0 5 }, bs)
  | .f2, _, b2 :: bs => some ({ fa := b2.extractLsb' 4 4, fb := b2.extractLsb' 0 4 }, bs)
  | .m2, _, [] => none
  | .m3, _, _ => none
  | .f2, _, [] => none

/-- The trailing fields, each big-endian (R116); none where the bytes run out. -/
def readTrail : List Nat → List Byte → Option (List Nat)
  | [], _ => some []
  | n :: ns, bs => if bs.length < n then none else (readTrail ns (bs.drop n)).map (beToNat (bs.take n) :: ·)

/-- All fields of a form. -/
def readFields (r : Row) (s : Byte) (bs : List Byte) : Option Fields :=
  match readFormat r.fmt s bs with
  | none => none
  | some (f, rest) => (readTrail r.trail rest).map (fun is => { f with imms := is })

/-! ## Every form's layout (R120 to R128), in the order of opcode_table.json -/

/-- The forms of a family that a sub-opcode selects. -/
noncomputable def Family.rows : Family → List Row
  -- AND: R120
  | .and =>
    [⟨.m2, [], fun f => .andRR8 f.a f.b⟩,
     ⟨.m2, [], fun f => .andRR16 f.a f.b⟩,
     ⟨.m2, [], fun f => .andRR24 f.a f.b⟩,
     ⟨.m2, [], fun f => .andRR32 f.a f.b⟩,
     ⟨.m2, [1], fun f => .andRI8 f.a (f.imm 0)⟩,
     ⟨.m2, [2], fun f => .andRI16 f.a (f.imm 0)⟩,
     ⟨.m2, [3], fun f => .andRI24 f.a (f.imm 0)⟩,
     ⟨.m2, [4], fun f => .andRI32 f.a (f.imm 0)⟩,
     ⟨.m2, [], fun f => .andRMr8 f.a f.b⟩,
     ⟨.m2, [], fun f => .andRMr16 f.a f.b⟩,
     ⟨.m2, [], fun f => .andRMr24 f.a f.b⟩,
     ⟨.m2, [], fun f => .andRMr32 f.a f.b⟩,
     ⟨.m2, [3], fun f => .andRMa8 f.a (f.imm 0)⟩,
     ⟨.m2, [3], fun f => .andRMa16 f.a (f.imm 0)⟩,
     ⟨.m2, [3], fun f => .andRMa24 f.a (f.imm 0)⟩,
     ⟨.m2, [3], fun f => .andRMa32 f.a (f.imm 0)⟩,
     ⟨.m2, [], fun f => .andMrR8 f.a f.b⟩,
     ⟨.m2, [], fun f => .andMrR16 f.a f.b⟩,
     ⟨.m2, [], fun f => .andMrR24 f.a f.b⟩,
     ⟨.m2, [], fun f => .andMrR32 f.a f.b⟩,
     ⟨.m2, [3], fun f => .andMaR8 (f.imm 0) f.a⟩,
     ⟨.m2, [3], fun f => .andMaR16 (f.imm 0) f.a⟩,
     ⟨.m2, [3], fun f => .andMaR24 (f.imm 0) f.a⟩,
     ⟨.m2, [3], fun f => .andMaR32 (f.imm 0) f.a⟩,
     ⟨.m2, [1], fun f => .andMrI8 f.a (f.imm 0)⟩,
     ⟨.m2, [2], fun f => .andMrI16 f.a (f.imm 0)⟩,
     ⟨.m2, [3], fun f => .andMrI24 f.a (f.imm 0)⟩,
     ⟨.m2, [4], fun f => .andMrI32 f.a (f.imm 0)⟩,
     ⟨.m2, [3, 1], fun f => .andMaI8 (f.imm 0) (f.imm 1)⟩,
     ⟨.m2, [3, 2], fun f => .andMaI16 (f.imm 0) (f.imm 1)⟩,
     ⟨.m2, [3, 3], fun f => .andMaI24 (f.imm 0) (f.imm 1)⟩,
     ⟨.m2, [3, 4], fun f => .andMaI32 (f.imm 0) (f.imm 1)⟩]
  -- OR: R120
  | .or =>
    [⟨.m2, [], fun f => .orRR8 f.a f.b⟩,
     ⟨.m2, [], fun f => .orRR16 f.a f.b⟩,
     ⟨.m2, [], fun f => .orRR24 f.a f.b⟩,
     ⟨.m2, [], fun f => .orRR32 f.a f.b⟩,
     ⟨.m2, [1], fun f => .orRI8 f.a (f.imm 0)⟩,
     ⟨.m2, [2], fun f => .orRI16 f.a (f.imm 0)⟩,
     ⟨.m2, [3], fun f => .orRI24 f.a (f.imm 0)⟩,
     ⟨.m2, [4], fun f => .orRI32 f.a (f.imm 0)⟩,
     ⟨.m2, [], fun f => .orRMr8 f.a f.b⟩,
     ⟨.m2, [], fun f => .orRMr16 f.a f.b⟩,
     ⟨.m2, [], fun f => .orRMr24 f.a f.b⟩,
     ⟨.m2, [], fun f => .orRMr32 f.a f.b⟩,
     ⟨.m2, [3], fun f => .orRMa8 f.a (f.imm 0)⟩,
     ⟨.m2, [3], fun f => .orRMa16 f.a (f.imm 0)⟩,
     ⟨.m2, [3], fun f => .orRMa24 f.a (f.imm 0)⟩,
     ⟨.m2, [3], fun f => .orRMa32 f.a (f.imm 0)⟩,
     ⟨.m2, [], fun f => .orMrR8 f.a f.b⟩,
     ⟨.m2, [], fun f => .orMrR16 f.a f.b⟩,
     ⟨.m2, [], fun f => .orMrR24 f.a f.b⟩,
     ⟨.m2, [], fun f => .orMrR32 f.a f.b⟩,
     ⟨.m2, [3], fun f => .orMaR8 (f.imm 0) f.a⟩,
     ⟨.m2, [3], fun f => .orMaR16 (f.imm 0) f.a⟩,
     ⟨.m2, [3], fun f => .orMaR24 (f.imm 0) f.a⟩,
     ⟨.m2, [3], fun f => .orMaR32 (f.imm 0) f.a⟩,
     ⟨.m2, [1], fun f => .orMrI8 f.a (f.imm 0)⟩,
     ⟨.m2, [2], fun f => .orMrI16 f.a (f.imm 0)⟩,
     ⟨.m2, [3], fun f => .orMrI24 f.a (f.imm 0)⟩,
     ⟨.m2, [4], fun f => .orMrI32 f.a (f.imm 0)⟩,
     ⟨.m2, [3, 1], fun f => .orMaI8 (f.imm 0) (f.imm 1)⟩,
     ⟨.m2, [3, 2], fun f => .orMaI16 (f.imm 0) (f.imm 1)⟩,
     ⟨.m2, [3, 3], fun f => .orMaI24 (f.imm 0) (f.imm 1)⟩,
     ⟨.m2, [3, 4], fun f => .orMaI32 (f.imm 0) (f.imm 1)⟩]
  -- XOR: R120
  | .xor =>
    [⟨.m2, [], fun f => .xorRR8 f.a f.b⟩,
     ⟨.m2, [], fun f => .xorRR16 f.a f.b⟩,
     ⟨.m2, [], fun f => .xorRR24 f.a f.b⟩,
     ⟨.m2, [], fun f => .xorRR32 f.a f.b⟩,
     ⟨.m2, [1], fun f => .xorRI8 f.a (f.imm 0)⟩,
     ⟨.m2, [2], fun f => .xorRI16 f.a (f.imm 0)⟩,
     ⟨.m2, [3], fun f => .xorRI24 f.a (f.imm 0)⟩,
     ⟨.m2, [4], fun f => .xorRI32 f.a (f.imm 0)⟩,
     ⟨.m2, [], fun f => .xorRMr8 f.a f.b⟩,
     ⟨.m2, [], fun f => .xorRMr16 f.a f.b⟩,
     ⟨.m2, [], fun f => .xorRMr24 f.a f.b⟩,
     ⟨.m2, [], fun f => .xorRMr32 f.a f.b⟩,
     ⟨.m2, [3], fun f => .xorRMa8 f.a (f.imm 0)⟩,
     ⟨.m2, [3], fun f => .xorRMa16 f.a (f.imm 0)⟩,
     ⟨.m2, [3], fun f => .xorRMa24 f.a (f.imm 0)⟩,
     ⟨.m2, [3], fun f => .xorRMa32 f.a (f.imm 0)⟩,
     ⟨.m2, [], fun f => .xorMrR8 f.a f.b⟩,
     ⟨.m2, [], fun f => .xorMrR16 f.a f.b⟩,
     ⟨.m2, [], fun f => .xorMrR24 f.a f.b⟩,
     ⟨.m2, [], fun f => .xorMrR32 f.a f.b⟩,
     ⟨.m2, [3], fun f => .xorMaR8 (f.imm 0) f.a⟩,
     ⟨.m2, [3], fun f => .xorMaR16 (f.imm 0) f.a⟩,
     ⟨.m2, [3], fun f => .xorMaR24 (f.imm 0) f.a⟩,
     ⟨.m2, [3], fun f => .xorMaR32 (f.imm 0) f.a⟩,
     ⟨.m2, [1], fun f => .xorMrI8 f.a (f.imm 0)⟩,
     ⟨.m2, [2], fun f => .xorMrI16 f.a (f.imm 0)⟩,
     ⟨.m2, [3], fun f => .xorMrI24 f.a (f.imm 0)⟩,
     ⟨.m2, [4], fun f => .xorMrI32 f.a (f.imm 0)⟩,
     ⟨.m2, [3, 1], fun f => .xorMaI8 (f.imm 0) (f.imm 1)⟩,
     ⟨.m2, [3, 2], fun f => .xorMaI16 (f.imm 0) (f.imm 1)⟩,
     ⟨.m2, [3, 3], fun f => .xorMaI24 (f.imm 0) (f.imm 1)⟩,
     ⟨.m2, [3, 4], fun f => .xorMaI32 (f.imm 0) (f.imm 1)⟩]
  -- NOR: R120
  | .nor =>
    [⟨.m2, [], fun f => .norRR8 f.a f.b⟩,
     ⟨.m2, [], fun f => .norRR16 f.a f.b⟩,
     ⟨.m2, [], fun f => .norRR24 f.a f.b⟩,
     ⟨.m2, [], fun f => .norRR32 f.a f.b⟩,
     ⟨.m2, [1], fun f => .norRI8 f.a (f.imm 0)⟩,
     ⟨.m2, [2], fun f => .norRI16 f.a (f.imm 0)⟩,
     ⟨.m2, [3], fun f => .norRI24 f.a (f.imm 0)⟩,
     ⟨.m2, [4], fun f => .norRI32 f.a (f.imm 0)⟩,
     ⟨.m2, [], fun f => .norRMr8 f.a f.b⟩,
     ⟨.m2, [], fun f => .norRMr16 f.a f.b⟩,
     ⟨.m2, [], fun f => .norRMr24 f.a f.b⟩,
     ⟨.m2, [], fun f => .norRMr32 f.a f.b⟩,
     ⟨.m2, [3], fun f => .norRMa8 f.a (f.imm 0)⟩,
     ⟨.m2, [3], fun f => .norRMa16 f.a (f.imm 0)⟩,
     ⟨.m2, [3], fun f => .norRMa24 f.a (f.imm 0)⟩,
     ⟨.m2, [3], fun f => .norRMa32 f.a (f.imm 0)⟩,
     ⟨.m2, [], fun f => .norMrR8 f.a f.b⟩,
     ⟨.m2, [], fun f => .norMrR16 f.a f.b⟩,
     ⟨.m2, [], fun f => .norMrR24 f.a f.b⟩,
     ⟨.m2, [], fun f => .norMrR32 f.a f.b⟩,
     ⟨.m2, [3], fun f => .norMaR8 (f.imm 0) f.a⟩,
     ⟨.m2, [3], fun f => .norMaR16 (f.imm 0) f.a⟩,
     ⟨.m2, [3], fun f => .norMaR24 (f.imm 0) f.a⟩,
     ⟨.m2, [3], fun f => .norMaR32 (f.imm 0) f.a⟩,
     ⟨.m2, [1], fun f => .norMrI8 f.a (f.imm 0)⟩,
     ⟨.m2, [2], fun f => .norMrI16 f.a (f.imm 0)⟩,
     ⟨.m2, [3], fun f => .norMrI24 f.a (f.imm 0)⟩,
     ⟨.m2, [4], fun f => .norMrI32 f.a (f.imm 0)⟩,
     ⟨.m2, [3, 1], fun f => .norMaI8 (f.imm 0) (f.imm 1)⟩,
     ⟨.m2, [3, 2], fun f => .norMaI16 (f.imm 0) (f.imm 1)⟩,
     ⟨.m2, [3, 3], fun f => .norMaI24 (f.imm 0) (f.imm 1)⟩,
     ⟨.m2, [3, 4], fun f => .norMaI32 (f.imm 0) (f.imm 1)⟩]
  -- MIN: R120, R121
  | .min =>
    [⟨.m2, [], fun f => .minRR8 f.a f.b⟩,
     ⟨.m2, [], fun f => .minRR16 f.a f.b⟩,
     ⟨.m2, [], fun f => .minRR24 f.a f.b⟩,
     ⟨.m2, [], fun f => .minRR32 f.a f.b⟩,
     ⟨.m2, [1], fun f => .minRI8 f.a (f.imm 0)⟩,
     ⟨.m2, [2], fun f => .minRI16 f.a (f.imm 0)⟩,
     ⟨.m2, [3], fun f => .minRI24 f.a (f.imm 0)⟩,
     ⟨.m2, [4], fun f => .minRI32 f.a (f.imm 0)⟩,
     ⟨.m2, [], fun f => .minRMr8 f.a f.b⟩,
     ⟨.m2, [], fun f => .minRMr16 f.a f.b⟩,
     ⟨.m2, [], fun f => .minRMr24 f.a f.b⟩,
     ⟨.m2, [], fun f => .minRMr32 f.a f.b⟩,
     ⟨.m2, [3], fun f => .minRMa8 f.a (f.imm 0)⟩,
     ⟨.m2, [3], fun f => .minRMa16 f.a (f.imm 0)⟩,
     ⟨.m2, [3], fun f => .minRMa24 f.a (f.imm 0)⟩,
     ⟨.m2, [3], fun f => .minRMa32 f.a (f.imm 0)⟩,
     ⟨.m2, [], fun f => .minMrR8 f.a f.b⟩,
     ⟨.m2, [], fun f => .minMrR16 f.a f.b⟩,
     ⟨.m2, [], fun f => .minMrR24 f.a f.b⟩,
     ⟨.m2, [], fun f => .minMrR32 f.a f.b⟩,
     ⟨.m2, [3], fun f => .minMaR8 (f.imm 0) f.a⟩,
     ⟨.m2, [3], fun f => .minMaR16 (f.imm 0) f.a⟩,
     ⟨.m2, [3], fun f => .minMaR24 (f.imm 0) f.a⟩,
     ⟨.m2, [3], fun f => .minMaR32 (f.imm 0) f.a⟩,
     ⟨.m2, [1], fun f => .minMrI8 f.a (f.imm 0)⟩,
     ⟨.m2, [2], fun f => .minMrI16 f.a (f.imm 0)⟩,
     ⟨.m2, [3], fun f => .minMrI24 f.a (f.imm 0)⟩,
     ⟨.m2, [4], fun f => .minMrI32 f.a (f.imm 0)⟩,
     ⟨.m2, [3, 1], fun f => .minMaI8 (f.imm 0) (f.imm 1)⟩,
     ⟨.m2, [3, 2], fun f => .minMaI16 (f.imm 0) (f.imm 1)⟩,
     ⟨.m2, [3, 3], fun f => .minMaI24 (f.imm 0) (f.imm 1)⟩,
     ⟨.m2, [3, 4], fun f => .minMaI32 (f.imm 0) (f.imm 1)⟩,
     ⟨.m2, [], fun f => .minRF8 f.a (f.b.setWidth 4)⟩,
     ⟨.m2, [], fun f => .minRF16 f.a (f.b.setWidth 4)⟩,
     ⟨.m2, [], fun f => .minRF24 f.a (f.b.setWidth 4)⟩,
     ⟨.m2, [], fun f => .minRF32 f.a (f.b.setWidth 4)⟩,
     ⟨.f2, [], fun f => .minFF f.fa f.fb⟩]
  -- MAX: R120, R121
  | .max =>
    [⟨.m2, [], fun f => .maxRR8 f.a f.b⟩,
     ⟨.m2, [], fun f => .maxRR16 f.a f.b⟩,
     ⟨.m2, [], fun f => .maxRR24 f.a f.b⟩,
     ⟨.m2, [], fun f => .maxRR32 f.a f.b⟩,
     ⟨.m2, [1], fun f => .maxRI8 f.a (f.imm 0)⟩,
     ⟨.m2, [2], fun f => .maxRI16 f.a (f.imm 0)⟩,
     ⟨.m2, [3], fun f => .maxRI24 f.a (f.imm 0)⟩,
     ⟨.m2, [4], fun f => .maxRI32 f.a (f.imm 0)⟩,
     ⟨.m2, [], fun f => .maxRMr8 f.a f.b⟩,
     ⟨.m2, [], fun f => .maxRMr16 f.a f.b⟩,
     ⟨.m2, [], fun f => .maxRMr24 f.a f.b⟩,
     ⟨.m2, [], fun f => .maxRMr32 f.a f.b⟩,
     ⟨.m2, [3], fun f => .maxRMa8 f.a (f.imm 0)⟩,
     ⟨.m2, [3], fun f => .maxRMa16 f.a (f.imm 0)⟩,
     ⟨.m2, [3], fun f => .maxRMa24 f.a (f.imm 0)⟩,
     ⟨.m2, [3], fun f => .maxRMa32 f.a (f.imm 0)⟩,
     ⟨.m2, [], fun f => .maxMrR8 f.a f.b⟩,
     ⟨.m2, [], fun f => .maxMrR16 f.a f.b⟩,
     ⟨.m2, [], fun f => .maxMrR24 f.a f.b⟩,
     ⟨.m2, [], fun f => .maxMrR32 f.a f.b⟩,
     ⟨.m2, [3], fun f => .maxMaR8 (f.imm 0) f.a⟩,
     ⟨.m2, [3], fun f => .maxMaR16 (f.imm 0) f.a⟩,
     ⟨.m2, [3], fun f => .maxMaR24 (f.imm 0) f.a⟩,
     ⟨.m2, [3], fun f => .maxMaR32 (f.imm 0) f.a⟩,
     ⟨.m2, [1], fun f => .maxMrI8 f.a (f.imm 0)⟩,
     ⟨.m2, [2], fun f => .maxMrI16 f.a (f.imm 0)⟩,
     ⟨.m2, [3], fun f => .maxMrI24 f.a (f.imm 0)⟩,
     ⟨.m2, [4], fun f => .maxMrI32 f.a (f.imm 0)⟩,
     ⟨.m2, [3, 1], fun f => .maxMaI8 (f.imm 0) (f.imm 1)⟩,
     ⟨.m2, [3, 2], fun f => .maxMaI16 (f.imm 0) (f.imm 1)⟩,
     ⟨.m2, [3, 3], fun f => .maxMaI24 (f.imm 0) (f.imm 1)⟩,
     ⟨.m2, [3, 4], fun f => .maxMaI32 (f.imm 0) (f.imm 1)⟩,
     ⟨.m2, [], fun f => .maxRF8 f.a (f.b.setWidth 4)⟩,
     ⟨.m2, [], fun f => .maxRF16 f.a (f.b.setWidth 4)⟩,
     ⟨.m2, [], fun f => .maxRF24 f.a (f.b.setWidth 4)⟩,
     ⟨.m2, [], fun f => .maxRF32 f.a (f.b.setWidth 4)⟩,
     ⟨.f2, [], fun f => .maxFF f.fa f.fb⟩]
  -- INC: R122
  | .inc =>
    [⟨.m2, [], fun f => .incR8 f.a⟩,
     ⟨.m2, [], fun f => .incR16 f.a⟩,
     ⟨.m2, [], fun f => .incR24 f.a⟩,
     ⟨.m2, [], fun f => .incR32 f.a⟩,
     ⟨.m2, [], fun f => .incMr8 f.a⟩,
     ⟨.m2, [], fun f => .incMr16 f.a⟩,
     ⟨.m2, [], fun f => .incMr24 f.a⟩,
     ⟨.m2, [], fun f => .incMr32 f.a⟩,
     ⟨.m2, [3], fun f => .incMa8 (f.imm 0)⟩,
     ⟨.m2, [3], fun f => .incMa16 (f.imm 0)⟩,
     ⟨.m2, [3], fun f => .incMa24 (f.imm 0)⟩,
     ⟨.m2, [3], fun f => .incMa32 (f.imm 0)⟩]
  -- DEC: R122
  | .dec =>
    [⟨.m2, [], fun f => .decR8 f.a⟩,
     ⟨.m2, [], fun f => .decR16 f.a⟩,
     ⟨.m2, [], fun f => .decR24 f.a⟩,
     ⟨.m2, [], fun f => .decR32 f.a⟩,
     ⟨.m2, [], fun f => .decMr8 f.a⟩,
     ⟨.m2, [], fun f => .decMr16 f.a⟩,
     ⟨.m2, [], fun f => .decMr24 f.a⟩,
     ⟨.m2, [], fun f => .decMr32 f.a⟩,
     ⟨.m2, [3], fun f => .decMa8 (f.imm 0)⟩,
     ⟨.m2, [3], fun f => .decMa16 (f.imm 0)⟩,
     ⟨.m2, [3], fun f => .decMa24 (f.imm 0)⟩,
     ⟨.m2, [3], fun f => .decMa32 (f.imm 0)⟩]
  -- INV: R122
  | .inv =>
    [⟨.m2, [], fun f => .invR8 f.a⟩,
     ⟨.m2, [], fun f => .invR16 f.a⟩,
     ⟨.m2, [], fun f => .invR24 f.a⟩,
     ⟨.m2, [], fun f => .invR32 f.a⟩]
  -- SL: R123
  | .sl =>
    [⟨.m2, [1], fun f => .slI8 f.a (f.imm 0)⟩,
     ⟨.m2, [1], fun f => .slI16 f.a (f.imm 0)⟩,
     ⟨.m2, [1], fun f => .slI24 f.a (f.imm 0)⟩,
     ⟨.m2, [1], fun f => .slI32 f.a (f.imm 0)⟩,
     ⟨.m2, [], fun f => .slR8 f.a f.b⟩,
     ⟨.m2, [], fun f => .slR16 f.a f.b⟩,
     ⟨.m2, [], fun f => .slR24 f.a f.b⟩,
     ⟨.m2, [], fun f => .slR32 f.a f.b⟩]
  -- SR: R123
  | .sr =>
    [⟨.m2, [1], fun f => .srI8 f.a (f.imm 0)⟩,
     ⟨.m2, [1], fun f => .srI16 f.a (f.imm 0)⟩,
     ⟨.m2, [1], fun f => .srI24 f.a (f.imm 0)⟩,
     ⟨.m2, [1], fun f => .srI32 f.a (f.imm 0)⟩,
     ⟨.m2, [], fun f => .srR8 f.a f.b⟩,
     ⟨.m2, [], fun f => .srR16 f.a f.b⟩,
     ⟨.m2, [], fun f => .srR24 f.a f.b⟩,
     ⟨.m2, [], fun f => .srR32 f.a f.b⟩]
  -- RL: R123
  | .rl =>
    [⟨.m2, [1], fun f => .rlI8 f.a (f.imm 0)⟩,
     ⟨.m2, [1], fun f => .rlI16 f.a (f.imm 0)⟩,
     ⟨.m2, [1], fun f => .rlI24 f.a (f.imm 0)⟩,
     ⟨.m2, [1], fun f => .rlI32 f.a (f.imm 0)⟩,
     ⟨.m2, [], fun f => .rlR8 f.a f.b⟩,
     ⟨.m2, [], fun f => .rlR16 f.a f.b⟩,
     ⟨.m2, [], fun f => .rlR24 f.a f.b⟩,
     ⟨.m2, [], fun f => .rlR32 f.a f.b⟩]
  -- RR: R123
  | .rr =>
    [⟨.m2, [1], fun f => .rrI8 f.a (f.imm 0)⟩,
     ⟨.m2, [1], fun f => .rrI16 f.a (f.imm 0)⟩,
     ⟨.m2, [1], fun f => .rrI24 f.a (f.imm 0)⟩,
     ⟨.m2, [1], fun f => .rrI32 f.a (f.imm 0)⟩,
     ⟨.m2, [], fun f => .rrR8 f.a f.b⟩,
     ⟨.m2, [], fun f => .rrR16 f.a f.b⟩,
     ⟨.m2, [], fun f => .rrR24 f.a f.b⟩,
     ⟨.m2, [], fun f => .rrR32 f.a f.b⟩]
  -- SET: R123
  | .set =>
    [⟨.m2, [1], fun f => .setI8 f.a (f.imm 0)⟩,
     ⟨.m2, [1], fun f => .setI16 f.a (f.imm 0)⟩,
     ⟨.m2, [1], fun f => .setI24 f.a (f.imm 0)⟩,
     ⟨.m2, [1], fun f => .setI32 f.a (f.imm 0)⟩,
     ⟨.m2, [], fun f => .setR8 f.a f.b⟩,
     ⟨.m2, [], fun f => .setR16 f.a f.b⟩,
     ⟨.m2, [], fun f => .setR24 f.a f.b⟩,
     ⟨.m2, [], fun f => .setR32 f.a f.b⟩]
  -- RES: R123
  | .res =>
    [⟨.m2, [1], fun f => .resI8 f.a (f.imm 0)⟩,
     ⟨.m2, [1], fun f => .resI16 f.a (f.imm 0)⟩,
     ⟨.m2, [1], fun f => .resI24 f.a (f.imm 0)⟩,
     ⟨.m2, [1], fun f => .resI32 f.a (f.imm 0)⟩,
     ⟨.m2, [], fun f => .resR8 f.a f.b⟩,
     ⟨.m2, [], fun f => .resR16 f.a f.b⟩,
     ⟨.m2, [], fun f => .resR24 f.a f.b⟩,
     ⟨.m2, [], fun f => .resR32 f.a f.b⟩]
  -- BIT: R123
  | .bit =>
    [⟨.m2, [1], fun f => .bitI8 f.a (f.imm 0)⟩,
     ⟨.m2, [1], fun f => .bitI16 f.a (f.imm 0)⟩,
     ⟨.m2, [1], fun f => .bitI24 f.a (f.imm 0)⟩,
     ⟨.m2, [1], fun f => .bitI32 f.a (f.imm 0)⟩,
     ⟨.m2, [], fun f => .bitR8 f.a f.b⟩,
     ⟨.m2, [], fun f => .bitR16 f.a f.b⟩,
     ⟨.m2, [], fun f => .bitR24 f.a f.b⟩,
     ⟨.m2, [], fun f => .bitR32 f.a f.b⟩]
  -- GETBITS: R124
  | .getbits =>
    [⟨.m2, [1], fun f => .getbitsI8 f.a f.b (f.imm 0)⟩,
     ⟨.m2, [1], fun f => .getbitsI16 f.a f.b (f.imm 0)⟩,
     ⟨.m2, [1], fun f => .getbitsI24 f.a f.b (f.imm 0)⟩,
     ⟨.m2, [1], fun f => .getbitsI32 f.a f.b (f.imm 0)⟩,
     ⟨.m3, [], fun f => .getbitsR8 f.a f.b f.c⟩,
     ⟨.m3, [], fun f => .getbitsR16 f.a f.b f.c⟩,
     ⟨.m3, [], fun f => .getbitsR24 f.a f.b f.c⟩,
     ⟨.m3, [], fun f => .getbitsR32 f.a f.b f.c⟩]
  -- SETBITS: R124
  | .setbits =>
    [⟨.m2, [1], fun f => .setbitsI8 f.a f.b (f.imm 0)⟩,
     ⟨.m2, [1], fun f => .setbitsI16 f.a f.b (f.imm 0)⟩,
     ⟨.m2, [1], fun f => .setbitsI24 f.a f.b (f.imm 0)⟩,
     ⟨.m2, [1], fun f => .setbitsI32 f.a f.b (f.imm 0)⟩,
     ⟨.m3, [], fun f => .setbitsR8 f.a f.b f.c⟩,
     ⟨.m3, [], fun f => .setbitsR16 f.a f.b f.c⟩,
     ⟨.m3, [], fun f => .setbitsR24 f.a f.b f.c⟩,
     ⟨.m3, [], fun f => .setbitsR32 f.a f.b f.c⟩]
  -- JP: R125
  | .jp =>
    [⟨.s5, [3], fun f => .jpImm (f.imm 0)⟩,
     ⟨.s5, [], fun f => .jpReg f.f⟩,
     ⟨.s5, [3], fun f => .jpCond f.f (f.imm 0)⟩]
  -- JR: R125
  | .jr =>
    [⟨.s5, [3], fun f => .jrRel (f.imm 0)⟩]
  -- CALL: R125
  | .call =>
    [⟨.s5, [3], fun f => .callImm (f.imm 0)⟩,
     ⟨.s5, [], fun f => .callReg f.f⟩,
     ⟨.s5, [3], fun f => .callCond f.f (f.imm 0)⟩]
  -- CALLR: R125
  | .callr =>
    [⟨.s5, [3], fun f => .callrRel (f.imm 0)⟩]
  -- RET: R125
  | .ret =>
    [⟨.s5, [], fun _ => .ret⟩]
  -- RETIF: R125
  | .retif =>
    [⟨.s5, [], fun f => .retif f.f⟩]
  -- SCP: R120
  | .scp =>
    [⟨.m2, [], fun f => .scpRR8 f.a f.b⟩,
     ⟨.m2, [], fun f => .scpRR16 f.a f.b⟩,
     ⟨.m2, [], fun f => .scpRR24 f.a f.b⟩,
     ⟨.m2, [], fun f => .scpRR32 f.a f.b⟩,
     ⟨.m2, [1], fun f => .scpRI8 f.a (f.imm 0)⟩,
     ⟨.m2, [2], fun f => .scpRI16 f.a (f.imm 0)⟩,
     ⟨.m2, [3], fun f => .scpRI24 f.a (f.imm 0)⟩,
     ⟨.m2, [4], fun f => .scpRI32 f.a (f.imm 0)⟩,
     ⟨.m2, [], fun f => .scpRMr8 f.a f.b⟩,
     ⟨.m2, [], fun f => .scpRMr16 f.a f.b⟩,
     ⟨.m2, [], fun f => .scpRMr24 f.a f.b⟩,
     ⟨.m2, [], fun f => .scpRMr32 f.a f.b⟩,
     ⟨.m2, [3], fun f => .scpRMa8 f.a (f.imm 0)⟩,
     ⟨.m2, [3], fun f => .scpRMa16 f.a (f.imm 0)⟩,
     ⟨.m2, [3], fun f => .scpRMa24 f.a (f.imm 0)⟩,
     ⟨.m2, [3], fun f => .scpRMa32 f.a (f.imm 0)⟩,
     ⟨.m2, [], fun f => .scpMrR8 f.a f.b⟩,
     ⟨.m2, [], fun f => .scpMrR16 f.a f.b⟩,
     ⟨.m2, [], fun f => .scpMrR24 f.a f.b⟩,
     ⟨.m2, [], fun f => .scpMrR32 f.a f.b⟩,
     ⟨.m2, [3], fun f => .scpMaR8 (f.imm 0) f.a⟩,
     ⟨.m2, [3], fun f => .scpMaR16 (f.imm 0) f.a⟩,
     ⟨.m2, [3], fun f => .scpMaR24 (f.imm 0) f.a⟩,
     ⟨.m2, [3], fun f => .scpMaR32 (f.imm 0) f.a⟩,
     ⟨.m2, [1], fun f => .scpMrI8 f.a (f.imm 0)⟩,
     ⟨.m2, [2], fun f => .scpMrI16 f.a (f.imm 0)⟩,
     ⟨.m2, [3], fun f => .scpMrI24 f.a (f.imm 0)⟩,
     ⟨.m2, [4], fun f => .scpMrI32 f.a (f.imm 0)⟩,
     ⟨.m2, [3, 1], fun f => .scpMaI8 (f.imm 0) (f.imm 1)⟩,
     ⟨.m2, [3, 2], fun f => .scpMaI16 (f.imm 0) (f.imm 1)⟩,
     ⟨.m2, [3, 3], fun f => .scpMaI24 (f.imm 0) (f.imm 1)⟩,
     ⟨.m2, [3, 4], fun f => .scpMaI32 (f.imm 0) (f.imm 1)⟩]
  -- SQR: R126
  | .sqr =>
    [⟨.f2, [], fun f => .sqrFF f.fa f.fb⟩,
     ⟨.m2, [], fun f => .sqrFR8 (f.b.setWidth 4) f.a⟩,
     ⟨.m2, [], fun f => .sqrFR16 (f.b.setWidth 4) f.a⟩,
     ⟨.m2, [], fun f => .sqrFR24 (f.b.setWidth 4) f.a⟩,
     ⟨.m2, [], fun f => .sqrFR32 (f.b.setWidth 4) f.a⟩,
     ⟨.m2, [], fun f => .sqrRF8 f.a (f.b.setWidth 4)⟩,
     ⟨.m2, [], fun f => .sqrRF16 f.a (f.b.setWidth 4)⟩,
     ⟨.m2, [], fun f => .sqrRF24 f.a (f.b.setWidth 4)⟩,
     ⟨.m2, [], fun f => .sqrRF32 f.a (f.b.setWidth 4)⟩,
     ⟨.m2, [], fun f => .sqrFMr (f.b.setWidth 4) f.a⟩,
     ⟨.m2, [], fun f => .sqrMrF f.a (f.b.setWidth 4)⟩,
     ⟨.f2, [3], fun f => .sqrFMa f.fa (f.imm 0)⟩,
     ⟨.f2, [3], fun f => .sqrMaF (f.imm 0) f.fa⟩]
  -- CBR: R126
  | .cbr =>
    [⟨.f2, [], fun f => .cbrFF f.fa f.fb⟩,
     ⟨.m2, [], fun f => .cbrFR8 (f.b.setWidth 4) f.a⟩,
     ⟨.m2, [], fun f => .cbrFR16 (f.b.setWidth 4) f.a⟩,
     ⟨.m2, [], fun f => .cbrFR24 (f.b.setWidth 4) f.a⟩,
     ⟨.m2, [], fun f => .cbrFR32 (f.b.setWidth 4) f.a⟩,
     ⟨.m2, [], fun f => .cbrRF8 f.a (f.b.setWidth 4)⟩,
     ⟨.m2, [], fun f => .cbrRF16 f.a (f.b.setWidth 4)⟩,
     ⟨.m2, [], fun f => .cbrRF24 f.a (f.b.setWidth 4)⟩,
     ⟨.m2, [], fun f => .cbrRF32 f.a (f.b.setWidth 4)⟩,
     ⟨.m2, [], fun f => .cbrFMr (f.b.setWidth 4) f.a⟩,
     ⟨.m2, [], fun f => .cbrMrF f.a (f.b.setWidth 4)⟩,
     ⟨.f2, [3], fun f => .cbrFMa f.fa (f.imm 0)⟩,
     ⟨.f2, [3], fun f => .cbrMaF (f.imm 0) f.fa⟩]
  -- POW: R126
  | .pow =>
    [⟨.f2, [], fun f => .powFF f.fa f.fb⟩,
     ⟨.m2, [], fun f => .powFR8 (f.b.setWidth 4) f.a⟩,
     ⟨.m2, [], fun f => .powFR16 (f.b.setWidth 4) f.a⟩,
     ⟨.m2, [], fun f => .powFR24 (f.b.setWidth 4) f.a⟩,
     ⟨.m2, [], fun f => .powFR32 (f.b.setWidth 4) f.a⟩,
     ⟨.m2, [], fun f => .powRF8 f.a (f.b.setWidth 4)⟩,
     ⟨.m2, [], fun f => .powRF16 f.a (f.b.setWidth 4)⟩,
     ⟨.m2, [], fun f => .powRF24 f.a (f.b.setWidth 4)⟩,
     ⟨.m2, [], fun f => .powRF32 f.a (f.b.setWidth 4)⟩,
     ⟨.m2, [], fun f => .powFMr (f.b.setWidth 4) f.a⟩,
     ⟨.m2, [], fun f => .powMrF f.a (f.b.setWidth 4)⟩,
     ⟨.f2, [3], fun f => .powFMa f.fa (f.imm 0)⟩,
     ⟨.f2, [3], fun f => .powMaF (f.imm 0) f.fa⟩]
  -- SIN: R126
  | .sin =>
    [⟨.f2, [], fun f => .sinFF f.fa f.fb⟩,
     ⟨.m2, [], fun f => .sinFR8 (f.b.setWidth 4) f.a⟩,
     ⟨.m2, [], fun f => .sinFR16 (f.b.setWidth 4) f.a⟩,
     ⟨.m2, [], fun f => .sinFR24 (f.b.setWidth 4) f.a⟩,
     ⟨.m2, [], fun f => .sinFR32 (f.b.setWidth 4) f.a⟩,
     ⟨.m2, [], fun f => .sinRF8 f.a (f.b.setWidth 4)⟩,
     ⟨.m2, [], fun f => .sinRF16 f.a (f.b.setWidth 4)⟩,
     ⟨.m2, [], fun f => .sinRF24 f.a (f.b.setWidth 4)⟩,
     ⟨.m2, [], fun f => .sinRF32 f.a (f.b.setWidth 4)⟩,
     ⟨.m2, [], fun f => .sinFMr (f.b.setWidth 4) f.a⟩,
     ⟨.m2, [], fun f => .sinMrF f.a (f.b.setWidth 4)⟩,
     ⟨.f2, [3], fun f => .sinFMa f.fa (f.imm 0)⟩,
     ⟨.f2, [3], fun f => .sinMaF (f.imm 0) f.fa⟩]
  -- FLOOR: R126
  | .floor =>
    [⟨.f2, [], fun f => .floorFF f.fa f.fb⟩,
     ⟨.m2, [], fun f => .floorFR8 (f.b.setWidth 4) f.a⟩,
     ⟨.m2, [], fun f => .floorFR16 (f.b.setWidth 4) f.a⟩,
     ⟨.m2, [], fun f => .floorFR24 (f.b.setWidth 4) f.a⟩,
     ⟨.m2, [], fun f => .floorFR32 (f.b.setWidth 4) f.a⟩,
     ⟨.m2, [], fun f => .floorRF8 f.a (f.b.setWidth 4)⟩,
     ⟨.m2, [], fun f => .floorRF16 f.a (f.b.setWidth 4)⟩,
     ⟨.m2, [], fun f => .floorRF24 f.a (f.b.setWidth 4)⟩,
     ⟨.m2, [], fun f => .floorRF32 f.a (f.b.setWidth 4)⟩,
     ⟨.m2, [], fun f => .floorFMr (f.b.setWidth 4) f.a⟩,
     ⟨.m2, [], fun f => .floorMrF f.a (f.b.setWidth 4)⟩,
     ⟨.f2, [3], fun f => .floorFMa f.fa (f.imm 0)⟩,
     ⟨.f2, [3], fun f => .floorMaF (f.imm 0) f.fa⟩]
  -- ROUND: R126
  | .round =>
    [⟨.f2, [], fun f => .roundFF f.fa f.fb⟩,
     ⟨.m2, [], fun f => .roundFR8 (f.b.setWidth 4) f.a⟩,
     ⟨.m2, [], fun f => .roundFR16 (f.b.setWidth 4) f.a⟩,
     ⟨.m2, [], fun f => .roundFR24 (f.b.setWidth 4) f.a⟩,
     ⟨.m2, [], fun f => .roundFR32 (f.b.setWidth 4) f.a⟩,
     ⟨.m2, [], fun f => .roundRF8 f.a (f.b.setWidth 4)⟩,
     ⟨.m2, [], fun f => .roundRF16 f.a (f.b.setWidth 4)⟩,
     ⟨.m2, [], fun f => .roundRF24 f.a (f.b.setWidth 4)⟩,
     ⟨.m2, [], fun f => .roundRF32 f.a (f.b.setWidth 4)⟩,
     ⟨.m2, [], fun f => .roundFMr (f.b.setWidth 4) f.a⟩,
     ⟨.m2, [], fun f => .roundMrF f.a (f.b.setWidth 4)⟩,
     ⟨.f2, [3], fun f => .roundFMa f.fa (f.imm 0)⟩,
     ⟨.f2, [3], fun f => .roundMaF (f.imm 0) f.fa⟩]
  -- MEMC: R127
  | .memc =>
    [⟨.m3, [], fun f => .memcRRR f.a f.b f.c⟩,
     ⟨.m3, [3], fun f => .memcRRI f.a f.b (f.imm 0)⟩,
     ⟨.m3, [3], fun f => .memcRIR f.a (f.imm 0) f.c⟩,
     ⟨.m3, [3, 3], fun f => .memcRII f.a (f.imm 0) (f.imm 1)⟩,
     ⟨.m3, [3], fun f => .memcIRR (f.imm 0) f.b f.c⟩,
     ⟨.m3, [3, 3], fun f => .memcIRI (f.imm 0) f.b (f.imm 1)⟩,
     ⟨.m3, [3, 3], fun f => .memcIIR (f.imm 0) (f.imm 1) f.c⟩,
     ⟨.m3, [3, 3, 3], fun f => .memcIII (f.imm 0) (f.imm 1) (f.imm 2)⟩]
  -- MEMF: R127
  | .memf =>
    [⟨.m3, [], fun f => .memfRRR f.a f.b f.c⟩,
     ⟨.m3, [3], fun f => .memfRRI f.a f.b (f.imm 0)⟩,
     ⟨.m3, [3], fun f => .memfRIR f.a (f.imm 0) f.c⟩,
     ⟨.m3, [3, 3], fun f => .memfRII f.a (f.imm 0) (f.imm 1)⟩,
     ⟨.m3, [1], fun f => .memfIRR (f.imm 0) f.b f.c⟩,
     ⟨.m3, [1, 3], fun f => .memfIRI (f.imm 0) f.b (f.imm 1)⟩,
     ⟨.m3, [1, 3], fun f => .memfIIR (f.imm 0) (f.imm 1) f.c⟩,
     ⟨.m3, [1, 3, 3], fun f => .memfIII (f.imm 0) (f.imm 1) (f.imm 2)⟩]
  -- FIND: R127
  | .find =>
    [⟨.m2, [1], fun f => .findBI f.a (f.imm 0)⟩,
     ⟨.m2, [], fun f => .findBR f.a f.b⟩,
     ⟨.m2, [3], fun f => .findPA f.a (f.imm 0)⟩,
     ⟨.m2, [], fun f => .findPR f.a f.b⟩]
  -- LDREGS: R127
  | .ldregs =>
    [⟨.m2, [3], fun f => .ldregsMa f.a f.b (f.imm 0)⟩,
     ⟨.m3, [], fun f => .ldregsMr f.a f.b f.c⟩]
  -- STREGS: R127
  | .stregs =>
    [⟨.m2, [3], fun f => .stregsMa f.a f.b (f.imm 0)⟩,
     ⟨.m3, [], fun f => .stregsMr f.a f.b f.c⟩]
  -- EX: R128
  | .ex =>
    [⟨.m2, [], fun f => .ex8 f.a f.b⟩,
     ⟨.m2, [], fun f => .ex16 f.a f.b⟩,
     ⟨.m2, [], fun f => .ex24 f.a f.b⟩,
     ⟨.m2, [], fun f => .ex32 f.a f.b⟩]
  -- BANKSEL: R128
  | .banksel =>
    [⟨.s5, [1], fun f => .bankselI (f.imm 0)⟩,
     ⟨.s5, [], fun f => .bankselR f.f⟩]
  -- RAND: R128
  | .rand =>
    [⟨.m2, [], fun f => .rand8 f.a⟩,
     ⟨.m2, [], fun f => .rand16 f.a⟩,
     ⟨.m2, [], fun f => .rand24 f.a⟩,
     ⟨.m2, [], fun f => .rand32 f.a⟩,
     ⟨.m2, [4], fun f => .randSeedI (f.imm 0)⟩,
     ⟨.m2, [], fun f => .randSeedR f.a⟩]
  -- WAIT: R128
  | .wait =>
    [⟨.s5, [2], fun f => .waitI (f.imm 0)⟩,
     ⟨.s5, [], fun f => .waitR f.f⟩]
  -- SETVAR: R128
  | .setvar =>
    [⟨.m2, [4, 4], fun f => .setvarII (f.imm 0) (f.imm 1)⟩,
     ⟨.m2, [4], fun f => .setvarRI f.a (f.imm 0)⟩,
     ⟨.m2, [4], fun f => .setvarIR (f.imm 0) f.b⟩,
     ⟨.m2, [], fun f => .setvarRR f.a f.b⟩]
  -- GETVAR: R128
  | .getvar =>
    [⟨.m2, [4], fun f => .getvarI f.a (f.imm 0)⟩,
     ⟨.m2, [], fun f => .getvarR f.a f.b⟩]
  -- SMUL: R128
  | .smul =>
    [⟨.m2, [], fun f => .smulRR8 f.a f.b⟩,
     ⟨.m2, [], fun f => .smulRR16 f.a f.b⟩,
     ⟨.m2, [], fun f => .smulRR24 f.a f.b⟩,
     ⟨.m2, [], fun f => .smulRR32 f.a f.b⟩,
     ⟨.m2, [1], fun f => .smulRI8 f.a (f.imm 0)⟩,
     ⟨.m2, [2], fun f => .smulRI16 f.a (f.imm 0)⟩,
     ⟨.m2, [3], fun f => .smulRI24 f.a (f.imm 0)⟩,
     ⟨.m2, [4], fun f => .smulRI32 f.a (f.imm 0)⟩]
  | .play => []
  -- VCL: R128
  | .vcl =>
    [⟨.s5, [1], fun f => .vclI (f.imm 0)⟩,
     ⟨.s5, [], fun f => .vclR f.f⟩]
  -- VDL: R128
  | .vdl =>
    [⟨.s5, [1], fun f => .vdlI (f.imm 0)⟩,
     ⟨.s5, [], fun f => .vdlR f.f⟩]
  -- INT: R128
  | .int =>
    [⟨.s5, [1, 1], fun f => .int f.f (f.imm 0) (f.imm 1)⟩]
  | .brk => []

/-! ## Classification of byte values (R129) and decoding -/

/-- The entry of a family in the tables. -/
def Encoding.code (e : Encoding) (m : Family) : FamilyCode := e.families.getD m.index default

/-- The class of a primary byte (R129). -/
inductive PrimaryClass where
  | family (m : Family) (fc : FamilyCode)
  | miss
  | unknown

/-- `Family(m)` when `OPC[m] = b`, `Miss` when `CLASS` lists it, else `Unknown` (R129). -/
def classifyPrimary (e : Encoding) (op : Byte) : PrimaryClass :=
  match (Family.all.zip e.families).find? (fun p => p.2.opc == op) with
  | some p => .family p.1 p.2
  | none => if inRanges e.primaryMisses op.toNat then .miss else .unknown

/-- The class of a sub-opcode of a family (R129). -/
inductive SubClass where
  | form (r : Row)
  | miss
  | unknown

/-- `Form(f)` when exactly one form has `S >> k = v`, `Miss` when `CLASS` lists it, else `Unknown` (R129). -/
noncomputable def classifySub (m : Family) (fc : FamilyCode) (s : Byte) : SubClass :=
  match (m.rows.zip fc.codes).filter (fun p => s.toNat >>> p.2.k == p.2.v) with
  | [p] => .form p.1
  | _ => if inRanges fc.misses s.toNat then .miss else .unknown

/-- What the decoder makes of bytes: an instruction and its length; a decode miss and its length (R130); an unclassified
byte (R131); or not enough bytes to tell. -/
inductive Decoded where
  | instr (i : Instr) (length : Nat)
  | miss (length : Nat)
  | unknown
  | short
deriving DecidableEq, Repr, Inhabited

/-- Decode the bytes at IPO (R110, R133, 40_dispatch.md R161). BREAK has no sub-opcode. Every PLAY encoding is the
instruction PLAY, whatever its sub-opcode: it is refused when it runs (R131, 46_misc_system.md R389). -/
noncomputable def decodeWith (e : Encoding) : List Byte → Decoded
  | [] => .short
  | op :: rest =>
    match classifyPrimary e op with
    | .miss => .miss 1
    | .unknown => .unknown
    | .family .brk _ => .instr .brk 1
    | .family .play _ => match rest with
      | [] => .short
      | _ :: _ => .instr .play 2
    | .family m fc => match rest with
      | [] => .short
      | s :: bs => match classifySub m fc s with
        | .miss => .miss 2
        | .unknown => .unknown
        | .form r => match readFields r s bs with
          | none => .short
          | some f => .instr (r.build f) r.length

/-! ## The encoder, from the same tables -/

/-- Which row an instruction is, and its fields. -/
structure Code where
  family : Family
  index : Nat
  fields : Fields := {}
deriving DecidableEq, Repr, Inhabited

/-- Every instruction's row and fields (R120 to R128). -/
def Instr.code : Instr → Code
  | .andRR8 a b => { family := .and, index := 0, fields := { a := a, b := b } }
  | .andRR16 a b => { family := .and, index := 1, fields := { a := a, b := b } }
  | .andRR24 a b => { family := .and, index := 2, fields := { a := a, b := b } }
  | .andRR32 a b => { family := .and, index := 3, fields := { a := a, b := b } }
  | .andRI8 a imm => { family := .and, index := 4, fields := { a := a, imms := [imm.toNat] } }
  | .andRI16 a imm => { family := .and, index := 5, fields := { a := a, imms := [imm.toNat] } }
  | .andRI24 a imm => { family := .and, index := 6, fields := { a := a, imms := [imm.toNat] } }
  | .andRI32 a imm => { family := .and, index := 7, fields := { a := a, imms := [imm.toNat] } }
  | .andRMr8 a b => { family := .and, index := 8, fields := { a := a, b := b } }
  | .andRMr16 a b => { family := .and, index := 9, fields := { a := a, b := b } }
  | .andRMr24 a b => { family := .and, index := 10, fields := { a := a, b := b } }
  | .andRMr32 a b => { family := .and, index := 11, fields := { a := a, b := b } }
  | .andRMa8 a addr => { family := .and, index := 12, fields := { a := a, imms := [addr.toNat] } }
  | .andRMa16 a addr => { family := .and, index := 13, fields := { a := a, imms := [addr.toNat] } }
  | .andRMa24 a addr => { family := .and, index := 14, fields := { a := a, imms := [addr.toNat] } }
  | .andRMa32 a addr => { family := .and, index := 15, fields := { a := a, imms := [addr.toNat] } }
  | .andMrR8 a b => { family := .and, index := 16, fields := { a := a, b := b } }
  | .andMrR16 a b => { family := .and, index := 17, fields := { a := a, b := b } }
  | .andMrR24 a b => { family := .and, index := 18, fields := { a := a, b := b } }
  | .andMrR32 a b => { family := .and, index := 19, fields := { a := a, b := b } }
  | .andMaR8 addr a => { family := .and, index := 20, fields := { a := a, imms := [addr.toNat] } }
  | .andMaR16 addr a => { family := .and, index := 21, fields := { a := a, imms := [addr.toNat] } }
  | .andMaR24 addr a => { family := .and, index := 22, fields := { a := a, imms := [addr.toNat] } }
  | .andMaR32 addr a => { family := .and, index := 23, fields := { a := a, imms := [addr.toNat] } }
  | .andMrI8 a imm => { family := .and, index := 24, fields := { a := a, imms := [imm.toNat] } }
  | .andMrI16 a imm => { family := .and, index := 25, fields := { a := a, imms := [imm.toNat] } }
  | .andMrI24 a imm => { family := .and, index := 26, fields := { a := a, imms := [imm.toNat] } }
  | .andMrI32 a imm => { family := .and, index := 27, fields := { a := a, imms := [imm.toNat] } }
  | .andMaI8 addr imm => { family := .and, index := 28, fields := { imms := [addr.toNat, imm.toNat] } }
  | .andMaI16 addr imm => { family := .and, index := 29, fields := { imms := [addr.toNat, imm.toNat] } }
  | .andMaI24 addr imm => { family := .and, index := 30, fields := { imms := [addr.toNat, imm.toNat] } }
  | .andMaI32 addr imm => { family := .and, index := 31, fields := { imms := [addr.toNat, imm.toNat] } }
  | .orRR8 a b => { family := .or, index := 0, fields := { a := a, b := b } }
  | .orRR16 a b => { family := .or, index := 1, fields := { a := a, b := b } }
  | .orRR24 a b => { family := .or, index := 2, fields := { a := a, b := b } }
  | .orRR32 a b => { family := .or, index := 3, fields := { a := a, b := b } }
  | .orRI8 a imm => { family := .or, index := 4, fields := { a := a, imms := [imm.toNat] } }
  | .orRI16 a imm => { family := .or, index := 5, fields := { a := a, imms := [imm.toNat] } }
  | .orRI24 a imm => { family := .or, index := 6, fields := { a := a, imms := [imm.toNat] } }
  | .orRI32 a imm => { family := .or, index := 7, fields := { a := a, imms := [imm.toNat] } }
  | .orRMr8 a b => { family := .or, index := 8, fields := { a := a, b := b } }
  | .orRMr16 a b => { family := .or, index := 9, fields := { a := a, b := b } }
  | .orRMr24 a b => { family := .or, index := 10, fields := { a := a, b := b } }
  | .orRMr32 a b => { family := .or, index := 11, fields := { a := a, b := b } }
  | .orRMa8 a addr => { family := .or, index := 12, fields := { a := a, imms := [addr.toNat] } }
  | .orRMa16 a addr => { family := .or, index := 13, fields := { a := a, imms := [addr.toNat] } }
  | .orRMa24 a addr => { family := .or, index := 14, fields := { a := a, imms := [addr.toNat] } }
  | .orRMa32 a addr => { family := .or, index := 15, fields := { a := a, imms := [addr.toNat] } }
  | .orMrR8 a b => { family := .or, index := 16, fields := { a := a, b := b } }
  | .orMrR16 a b => { family := .or, index := 17, fields := { a := a, b := b } }
  | .orMrR24 a b => { family := .or, index := 18, fields := { a := a, b := b } }
  | .orMrR32 a b => { family := .or, index := 19, fields := { a := a, b := b } }
  | .orMaR8 addr a => { family := .or, index := 20, fields := { a := a, imms := [addr.toNat] } }
  | .orMaR16 addr a => { family := .or, index := 21, fields := { a := a, imms := [addr.toNat] } }
  | .orMaR24 addr a => { family := .or, index := 22, fields := { a := a, imms := [addr.toNat] } }
  | .orMaR32 addr a => { family := .or, index := 23, fields := { a := a, imms := [addr.toNat] } }
  | .orMrI8 a imm => { family := .or, index := 24, fields := { a := a, imms := [imm.toNat] } }
  | .orMrI16 a imm => { family := .or, index := 25, fields := { a := a, imms := [imm.toNat] } }
  | .orMrI24 a imm => { family := .or, index := 26, fields := { a := a, imms := [imm.toNat] } }
  | .orMrI32 a imm => { family := .or, index := 27, fields := { a := a, imms := [imm.toNat] } }
  | .orMaI8 addr imm => { family := .or, index := 28, fields := { imms := [addr.toNat, imm.toNat] } }
  | .orMaI16 addr imm => { family := .or, index := 29, fields := { imms := [addr.toNat, imm.toNat] } }
  | .orMaI24 addr imm => { family := .or, index := 30, fields := { imms := [addr.toNat, imm.toNat] } }
  | .orMaI32 addr imm => { family := .or, index := 31, fields := { imms := [addr.toNat, imm.toNat] } }
  | .xorRR8 a b => { family := .xor, index := 0, fields := { a := a, b := b } }
  | .xorRR16 a b => { family := .xor, index := 1, fields := { a := a, b := b } }
  | .xorRR24 a b => { family := .xor, index := 2, fields := { a := a, b := b } }
  | .xorRR32 a b => { family := .xor, index := 3, fields := { a := a, b := b } }
  | .xorRI8 a imm => { family := .xor, index := 4, fields := { a := a, imms := [imm.toNat] } }
  | .xorRI16 a imm => { family := .xor, index := 5, fields := { a := a, imms := [imm.toNat] } }
  | .xorRI24 a imm => { family := .xor, index := 6, fields := { a := a, imms := [imm.toNat] } }
  | .xorRI32 a imm => { family := .xor, index := 7, fields := { a := a, imms := [imm.toNat] } }
  | .xorRMr8 a b => { family := .xor, index := 8, fields := { a := a, b := b } }
  | .xorRMr16 a b => { family := .xor, index := 9, fields := { a := a, b := b } }
  | .xorRMr24 a b => { family := .xor, index := 10, fields := { a := a, b := b } }
  | .xorRMr32 a b => { family := .xor, index := 11, fields := { a := a, b := b } }
  | .xorRMa8 a addr => { family := .xor, index := 12, fields := { a := a, imms := [addr.toNat] } }
  | .xorRMa16 a addr => { family := .xor, index := 13, fields := { a := a, imms := [addr.toNat] } }
  | .xorRMa24 a addr => { family := .xor, index := 14, fields := { a := a, imms := [addr.toNat] } }
  | .xorRMa32 a addr => { family := .xor, index := 15, fields := { a := a, imms := [addr.toNat] } }
  | .xorMrR8 a b => { family := .xor, index := 16, fields := { a := a, b := b } }
  | .xorMrR16 a b => { family := .xor, index := 17, fields := { a := a, b := b } }
  | .xorMrR24 a b => { family := .xor, index := 18, fields := { a := a, b := b } }
  | .xorMrR32 a b => { family := .xor, index := 19, fields := { a := a, b := b } }
  | .xorMaR8 addr a => { family := .xor, index := 20, fields := { a := a, imms := [addr.toNat] } }
  | .xorMaR16 addr a => { family := .xor, index := 21, fields := { a := a, imms := [addr.toNat] } }
  | .xorMaR24 addr a => { family := .xor, index := 22, fields := { a := a, imms := [addr.toNat] } }
  | .xorMaR32 addr a => { family := .xor, index := 23, fields := { a := a, imms := [addr.toNat] } }
  | .xorMrI8 a imm => { family := .xor, index := 24, fields := { a := a, imms := [imm.toNat] } }
  | .xorMrI16 a imm => { family := .xor, index := 25, fields := { a := a, imms := [imm.toNat] } }
  | .xorMrI24 a imm => { family := .xor, index := 26, fields := { a := a, imms := [imm.toNat] } }
  | .xorMrI32 a imm => { family := .xor, index := 27, fields := { a := a, imms := [imm.toNat] } }
  | .xorMaI8 addr imm => { family := .xor, index := 28, fields := { imms := [addr.toNat, imm.toNat] } }
  | .xorMaI16 addr imm => { family := .xor, index := 29, fields := { imms := [addr.toNat, imm.toNat] } }
  | .xorMaI24 addr imm => { family := .xor, index := 30, fields := { imms := [addr.toNat, imm.toNat] } }
  | .xorMaI32 addr imm => { family := .xor, index := 31, fields := { imms := [addr.toNat, imm.toNat] } }
  | .norRR8 a b => { family := .nor, index := 0, fields := { a := a, b := b } }
  | .norRR16 a b => { family := .nor, index := 1, fields := { a := a, b := b } }
  | .norRR24 a b => { family := .nor, index := 2, fields := { a := a, b := b } }
  | .norRR32 a b => { family := .nor, index := 3, fields := { a := a, b := b } }
  | .norRI8 a imm => { family := .nor, index := 4, fields := { a := a, imms := [imm.toNat] } }
  | .norRI16 a imm => { family := .nor, index := 5, fields := { a := a, imms := [imm.toNat] } }
  | .norRI24 a imm => { family := .nor, index := 6, fields := { a := a, imms := [imm.toNat] } }
  | .norRI32 a imm => { family := .nor, index := 7, fields := { a := a, imms := [imm.toNat] } }
  | .norRMr8 a b => { family := .nor, index := 8, fields := { a := a, b := b } }
  | .norRMr16 a b => { family := .nor, index := 9, fields := { a := a, b := b } }
  | .norRMr24 a b => { family := .nor, index := 10, fields := { a := a, b := b } }
  | .norRMr32 a b => { family := .nor, index := 11, fields := { a := a, b := b } }
  | .norRMa8 a addr => { family := .nor, index := 12, fields := { a := a, imms := [addr.toNat] } }
  | .norRMa16 a addr => { family := .nor, index := 13, fields := { a := a, imms := [addr.toNat] } }
  | .norRMa24 a addr => { family := .nor, index := 14, fields := { a := a, imms := [addr.toNat] } }
  | .norRMa32 a addr => { family := .nor, index := 15, fields := { a := a, imms := [addr.toNat] } }
  | .norMrR8 a b => { family := .nor, index := 16, fields := { a := a, b := b } }
  | .norMrR16 a b => { family := .nor, index := 17, fields := { a := a, b := b } }
  | .norMrR24 a b => { family := .nor, index := 18, fields := { a := a, b := b } }
  | .norMrR32 a b => { family := .nor, index := 19, fields := { a := a, b := b } }
  | .norMaR8 addr a => { family := .nor, index := 20, fields := { a := a, imms := [addr.toNat] } }
  | .norMaR16 addr a => { family := .nor, index := 21, fields := { a := a, imms := [addr.toNat] } }
  | .norMaR24 addr a => { family := .nor, index := 22, fields := { a := a, imms := [addr.toNat] } }
  | .norMaR32 addr a => { family := .nor, index := 23, fields := { a := a, imms := [addr.toNat] } }
  | .norMrI8 a imm => { family := .nor, index := 24, fields := { a := a, imms := [imm.toNat] } }
  | .norMrI16 a imm => { family := .nor, index := 25, fields := { a := a, imms := [imm.toNat] } }
  | .norMrI24 a imm => { family := .nor, index := 26, fields := { a := a, imms := [imm.toNat] } }
  | .norMrI32 a imm => { family := .nor, index := 27, fields := { a := a, imms := [imm.toNat] } }
  | .norMaI8 addr imm => { family := .nor, index := 28, fields := { imms := [addr.toNat, imm.toNat] } }
  | .norMaI16 addr imm => { family := .nor, index := 29, fields := { imms := [addr.toNat, imm.toNat] } }
  | .norMaI24 addr imm => { family := .nor, index := 30, fields := { imms := [addr.toNat, imm.toNat] } }
  | .norMaI32 addr imm => { family := .nor, index := 31, fields := { imms := [addr.toNat, imm.toNat] } }
  | .minRR8 a b => { family := .min, index := 0, fields := { a := a, b := b } }
  | .minRR16 a b => { family := .min, index := 1, fields := { a := a, b := b } }
  | .minRR24 a b => { family := .min, index := 2, fields := { a := a, b := b } }
  | .minRR32 a b => { family := .min, index := 3, fields := { a := a, b := b } }
  | .minRI8 a imm => { family := .min, index := 4, fields := { a := a, imms := [imm.toNat] } }
  | .minRI16 a imm => { family := .min, index := 5, fields := { a := a, imms := [imm.toNat] } }
  | .minRI24 a imm => { family := .min, index := 6, fields := { a := a, imms := [imm.toNat] } }
  | .minRI32 a imm => { family := .min, index := 7, fields := { a := a, imms := [imm.toNat] } }
  | .minRMr8 a b => { family := .min, index := 8, fields := { a := a, b := b } }
  | .minRMr16 a b => { family := .min, index := 9, fields := { a := a, b := b } }
  | .minRMr24 a b => { family := .min, index := 10, fields := { a := a, b := b } }
  | .minRMr32 a b => { family := .min, index := 11, fields := { a := a, b := b } }
  | .minRMa8 a addr => { family := .min, index := 12, fields := { a := a, imms := [addr.toNat] } }
  | .minRMa16 a addr => { family := .min, index := 13, fields := { a := a, imms := [addr.toNat] } }
  | .minRMa24 a addr => { family := .min, index := 14, fields := { a := a, imms := [addr.toNat] } }
  | .minRMa32 a addr => { family := .min, index := 15, fields := { a := a, imms := [addr.toNat] } }
  | .minMrR8 a b => { family := .min, index := 16, fields := { a := a, b := b } }
  | .minMrR16 a b => { family := .min, index := 17, fields := { a := a, b := b } }
  | .minMrR24 a b => { family := .min, index := 18, fields := { a := a, b := b } }
  | .minMrR32 a b => { family := .min, index := 19, fields := { a := a, b := b } }
  | .minMaR8 addr a => { family := .min, index := 20, fields := { a := a, imms := [addr.toNat] } }
  | .minMaR16 addr a => { family := .min, index := 21, fields := { a := a, imms := [addr.toNat] } }
  | .minMaR24 addr a => { family := .min, index := 22, fields := { a := a, imms := [addr.toNat] } }
  | .minMaR32 addr a => { family := .min, index := 23, fields := { a := a, imms := [addr.toNat] } }
  | .minMrI8 a imm => { family := .min, index := 24, fields := { a := a, imms := [imm.toNat] } }
  | .minMrI16 a imm => { family := .min, index := 25, fields := { a := a, imms := [imm.toNat] } }
  | .minMrI24 a imm => { family := .min, index := 26, fields := { a := a, imms := [imm.toNat] } }
  | .minMrI32 a imm => { family := .min, index := 27, fields := { a := a, imms := [imm.toNat] } }
  | .minMaI8 addr imm => { family := .min, index := 28, fields := { imms := [addr.toNat, imm.toNat] } }
  | .minMaI16 addr imm => { family := .min, index := 29, fields := { imms := [addr.toNat, imm.toNat] } }
  | .minMaI24 addr imm => { family := .min, index := 30, fields := { imms := [addr.toNat, imm.toNat] } }
  | .minMaI32 addr imm => { family := .min, index := 31, fields := { imms := [addr.toNat, imm.toNat] } }
  | .minRF8 a fb => { family := .min, index := 32, fields := { a := a, b := fb.setWidth 5 } }
  | .minRF16 a fb => { family := .min, index := 33, fields := { a := a, b := fb.setWidth 5 } }
  | .minRF24 a fb => { family := .min, index := 34, fields := { a := a, b := fb.setWidth 5 } }
  | .minRF32 a fb => { family := .min, index := 35, fields := { a := a, b := fb.setWidth 5 } }
  | .minFF fa fb => { family := .min, index := 36, fields := { fa := fa, fb := fb } }
  | .maxRR8 a b => { family := .max, index := 0, fields := { a := a, b := b } }
  | .maxRR16 a b => { family := .max, index := 1, fields := { a := a, b := b } }
  | .maxRR24 a b => { family := .max, index := 2, fields := { a := a, b := b } }
  | .maxRR32 a b => { family := .max, index := 3, fields := { a := a, b := b } }
  | .maxRI8 a imm => { family := .max, index := 4, fields := { a := a, imms := [imm.toNat] } }
  | .maxRI16 a imm => { family := .max, index := 5, fields := { a := a, imms := [imm.toNat] } }
  | .maxRI24 a imm => { family := .max, index := 6, fields := { a := a, imms := [imm.toNat] } }
  | .maxRI32 a imm => { family := .max, index := 7, fields := { a := a, imms := [imm.toNat] } }
  | .maxRMr8 a b => { family := .max, index := 8, fields := { a := a, b := b } }
  | .maxRMr16 a b => { family := .max, index := 9, fields := { a := a, b := b } }
  | .maxRMr24 a b => { family := .max, index := 10, fields := { a := a, b := b } }
  | .maxRMr32 a b => { family := .max, index := 11, fields := { a := a, b := b } }
  | .maxRMa8 a addr => { family := .max, index := 12, fields := { a := a, imms := [addr.toNat] } }
  | .maxRMa16 a addr => { family := .max, index := 13, fields := { a := a, imms := [addr.toNat] } }
  | .maxRMa24 a addr => { family := .max, index := 14, fields := { a := a, imms := [addr.toNat] } }
  | .maxRMa32 a addr => { family := .max, index := 15, fields := { a := a, imms := [addr.toNat] } }
  | .maxMrR8 a b => { family := .max, index := 16, fields := { a := a, b := b } }
  | .maxMrR16 a b => { family := .max, index := 17, fields := { a := a, b := b } }
  | .maxMrR24 a b => { family := .max, index := 18, fields := { a := a, b := b } }
  | .maxMrR32 a b => { family := .max, index := 19, fields := { a := a, b := b } }
  | .maxMaR8 addr a => { family := .max, index := 20, fields := { a := a, imms := [addr.toNat] } }
  | .maxMaR16 addr a => { family := .max, index := 21, fields := { a := a, imms := [addr.toNat] } }
  | .maxMaR24 addr a => { family := .max, index := 22, fields := { a := a, imms := [addr.toNat] } }
  | .maxMaR32 addr a => { family := .max, index := 23, fields := { a := a, imms := [addr.toNat] } }
  | .maxMrI8 a imm => { family := .max, index := 24, fields := { a := a, imms := [imm.toNat] } }
  | .maxMrI16 a imm => { family := .max, index := 25, fields := { a := a, imms := [imm.toNat] } }
  | .maxMrI24 a imm => { family := .max, index := 26, fields := { a := a, imms := [imm.toNat] } }
  | .maxMrI32 a imm => { family := .max, index := 27, fields := { a := a, imms := [imm.toNat] } }
  | .maxMaI8 addr imm => { family := .max, index := 28, fields := { imms := [addr.toNat, imm.toNat] } }
  | .maxMaI16 addr imm => { family := .max, index := 29, fields := { imms := [addr.toNat, imm.toNat] } }
  | .maxMaI24 addr imm => { family := .max, index := 30, fields := { imms := [addr.toNat, imm.toNat] } }
  | .maxMaI32 addr imm => { family := .max, index := 31, fields := { imms := [addr.toNat, imm.toNat] } }
  | .maxRF8 a fb => { family := .max, index := 32, fields := { a := a, b := fb.setWidth 5 } }
  | .maxRF16 a fb => { family := .max, index := 33, fields := { a := a, b := fb.setWidth 5 } }
  | .maxRF24 a fb => { family := .max, index := 34, fields := { a := a, b := fb.setWidth 5 } }
  | .maxRF32 a fb => { family := .max, index := 35, fields := { a := a, b := fb.setWidth 5 } }
  | .maxFF fa fb => { family := .max, index := 36, fields := { fa := fa, fb := fb } }
  | .incR8 a => { family := .inc, index := 0, fields := { a := a } }
  | .incR16 a => { family := .inc, index := 1, fields := { a := a } }
  | .incR24 a => { family := .inc, index := 2, fields := { a := a } }
  | .incR32 a => { family := .inc, index := 3, fields := { a := a } }
  | .incMr8 a => { family := .inc, index := 4, fields := { a := a } }
  | .incMr16 a => { family := .inc, index := 5, fields := { a := a } }
  | .incMr24 a => { family := .inc, index := 6, fields := { a := a } }
  | .incMr32 a => { family := .inc, index := 7, fields := { a := a } }
  | .incMa8 addr => { family := .inc, index := 8, fields := { imms := [addr.toNat] } }
  | .incMa16 addr => { family := .inc, index := 9, fields := { imms := [addr.toNat] } }
  | .incMa24 addr => { family := .inc, index := 10, fields := { imms := [addr.toNat] } }
  | .incMa32 addr => { family := .inc, index := 11, fields := { imms := [addr.toNat] } }
  | .decR8 a => { family := .dec, index := 0, fields := { a := a } }
  | .decR16 a => { family := .dec, index := 1, fields := { a := a } }
  | .decR24 a => { family := .dec, index := 2, fields := { a := a } }
  | .decR32 a => { family := .dec, index := 3, fields := { a := a } }
  | .decMr8 a => { family := .dec, index := 4, fields := { a := a } }
  | .decMr16 a => { family := .dec, index := 5, fields := { a := a } }
  | .decMr24 a => { family := .dec, index := 6, fields := { a := a } }
  | .decMr32 a => { family := .dec, index := 7, fields := { a := a } }
  | .decMa8 addr => { family := .dec, index := 8, fields := { imms := [addr.toNat] } }
  | .decMa16 addr => { family := .dec, index := 9, fields := { imms := [addr.toNat] } }
  | .decMa24 addr => { family := .dec, index := 10, fields := { imms := [addr.toNat] } }
  | .decMa32 addr => { family := .dec, index := 11, fields := { imms := [addr.toNat] } }
  | .invR8 a => { family := .inv, index := 0, fields := { a := a } }
  | .invR16 a => { family := .inv, index := 1, fields := { a := a } }
  | .invR24 a => { family := .inv, index := 2, fields := { a := a } }
  | .invR32 a => { family := .inv, index := 3, fields := { a := a } }
  | .slI8 a n => { family := .sl, index := 0, fields := { a := a, imms := [n.toNat] } }
  | .slI16 a n => { family := .sl, index := 1, fields := { a := a, imms := [n.toNat] } }
  | .slI24 a n => { family := .sl, index := 2, fields := { a := a, imms := [n.toNat] } }
  | .slI32 a n => { family := .sl, index := 3, fields := { a := a, imms := [n.toNat] } }
  | .slR8 a b => { family := .sl, index := 4, fields := { a := a, b := b } }
  | .slR16 a b => { family := .sl, index := 5, fields := { a := a, b := b } }
  | .slR24 a b => { family := .sl, index := 6, fields := { a := a, b := b } }
  | .slR32 a b => { family := .sl, index := 7, fields := { a := a, b := b } }
  | .srI8 a n => { family := .sr, index := 0, fields := { a := a, imms := [n.toNat] } }
  | .srI16 a n => { family := .sr, index := 1, fields := { a := a, imms := [n.toNat] } }
  | .srI24 a n => { family := .sr, index := 2, fields := { a := a, imms := [n.toNat] } }
  | .srI32 a n => { family := .sr, index := 3, fields := { a := a, imms := [n.toNat] } }
  | .srR8 a b => { family := .sr, index := 4, fields := { a := a, b := b } }
  | .srR16 a b => { family := .sr, index := 5, fields := { a := a, b := b } }
  | .srR24 a b => { family := .sr, index := 6, fields := { a := a, b := b } }
  | .srR32 a b => { family := .sr, index := 7, fields := { a := a, b := b } }
  | .rlI8 a n => { family := .rl, index := 0, fields := { a := a, imms := [n.toNat] } }
  | .rlI16 a n => { family := .rl, index := 1, fields := { a := a, imms := [n.toNat] } }
  | .rlI24 a n => { family := .rl, index := 2, fields := { a := a, imms := [n.toNat] } }
  | .rlI32 a n => { family := .rl, index := 3, fields := { a := a, imms := [n.toNat] } }
  | .rlR8 a b => { family := .rl, index := 4, fields := { a := a, b := b } }
  | .rlR16 a b => { family := .rl, index := 5, fields := { a := a, b := b } }
  | .rlR24 a b => { family := .rl, index := 6, fields := { a := a, b := b } }
  | .rlR32 a b => { family := .rl, index := 7, fields := { a := a, b := b } }
  | .rrI8 a n => { family := .rr, index := 0, fields := { a := a, imms := [n.toNat] } }
  | .rrI16 a n => { family := .rr, index := 1, fields := { a := a, imms := [n.toNat] } }
  | .rrI24 a n => { family := .rr, index := 2, fields := { a := a, imms := [n.toNat] } }
  | .rrI32 a n => { family := .rr, index := 3, fields := { a := a, imms := [n.toNat] } }
  | .rrR8 a b => { family := .rr, index := 4, fields := { a := a, b := b } }
  | .rrR16 a b => { family := .rr, index := 5, fields := { a := a, b := b } }
  | .rrR24 a b => { family := .rr, index := 6, fields := { a := a, b := b } }
  | .rrR32 a b => { family := .rr, index := 7, fields := { a := a, b := b } }
  | .setI8 a n => { family := .set, index := 0, fields := { a := a, imms := [n.toNat] } }
  | .setI16 a n => { family := .set, index := 1, fields := { a := a, imms := [n.toNat] } }
  | .setI24 a n => { family := .set, index := 2, fields := { a := a, imms := [n.toNat] } }
  | .setI32 a n => { family := .set, index := 3, fields := { a := a, imms := [n.toNat] } }
  | .setR8 a b => { family := .set, index := 4, fields := { a := a, b := b } }
  | .setR16 a b => { family := .set, index := 5, fields := { a := a, b := b } }
  | .setR24 a b => { family := .set, index := 6, fields := { a := a, b := b } }
  | .setR32 a b => { family := .set, index := 7, fields := { a := a, b := b } }
  | .resI8 a n => { family := .res, index := 0, fields := { a := a, imms := [n.toNat] } }
  | .resI16 a n => { family := .res, index := 1, fields := { a := a, imms := [n.toNat] } }
  | .resI24 a n => { family := .res, index := 2, fields := { a := a, imms := [n.toNat] } }
  | .resI32 a n => { family := .res, index := 3, fields := { a := a, imms := [n.toNat] } }
  | .resR8 a b => { family := .res, index := 4, fields := { a := a, b := b } }
  | .resR16 a b => { family := .res, index := 5, fields := { a := a, b := b } }
  | .resR24 a b => { family := .res, index := 6, fields := { a := a, b := b } }
  | .resR32 a b => { family := .res, index := 7, fields := { a := a, b := b } }
  | .bitI8 a n => { family := .bit, index := 0, fields := { a := a, imms := [n.toNat] } }
  | .bitI16 a n => { family := .bit, index := 1, fields := { a := a, imms := [n.toNat] } }
  | .bitI24 a n => { family := .bit, index := 2, fields := { a := a, imms := [n.toNat] } }
  | .bitI32 a n => { family := .bit, index := 3, fields := { a := a, imms := [n.toNat] } }
  | .bitR8 a b => { family := .bit, index := 4, fields := { a := a, b := b } }
  | .bitR16 a b => { family := .bit, index := 5, fields := { a := a, b := b } }
  | .bitR24 a b => { family := .bit, index := 6, fields := { a := a, b := b } }
  | .bitR32 a b => { family := .bit, index := 7, fields := { a := a, b := b } }
  | .getbitsI8 a b n => { family := .getbits, index := 0, fields := { a := a, b := b, imms := [n.toNat] } }
  | .getbitsI16 a b n => { family := .getbits, index := 1, fields := { a := a, b := b, imms := [n.toNat] } }
  | .getbitsI24 a b n => { family := .getbits, index := 2, fields := { a := a, b := b, imms := [n.toNat] } }
  | .getbitsI32 a b n => { family := .getbits, index := 3, fields := { a := a, b := b, imms := [n.toNat] } }
  | .getbitsR8 a b c => { family := .getbits, index := 4, fields := { a := a, b := b, c := c } }
  | .getbitsR16 a b c => { family := .getbits, index := 5, fields := { a := a, b := b, c := c } }
  | .getbitsR24 a b c => { family := .getbits, index := 6, fields := { a := a, b := b, c := c } }
  | .getbitsR32 a b c => { family := .getbits, index := 7, fields := { a := a, b := b, c := c } }
  | .setbitsI8 a b n => { family := .setbits, index := 0, fields := { a := a, b := b, imms := [n.toNat] } }
  | .setbitsI16 a b n => { family := .setbits, index := 1, fields := { a := a, b := b, imms := [n.toNat] } }
  | .setbitsI24 a b n => { family := .setbits, index := 2, fields := { a := a, b := b, imms := [n.toNat] } }
  | .setbitsI32 a b n => { family := .setbits, index := 3, fields := { a := a, b := b, imms := [n.toNat] } }
  | .setbitsR8 a b c => { family := .setbits, index := 4, fields := { a := a, b := b, c := c } }
  | .setbitsR16 a b c => { family := .setbits, index := 5, fields := { a := a, b := b, c := c } }
  | .setbitsR24 a b c => { family := .setbits, index := 6, fields := { a := a, b := b, c := c } }
  | .setbitsR32 a b c => { family := .setbits, index := 7, fields := { a := a, b := b, c := c } }
  | .jpImm addr => { family := .jp, index := 0, fields := { imms := [addr.toNat] } }
  | .jpReg r => { family := .jp, index := 1, fields := { f := r } }
  | .jpCond flag addr => { family := .jp, index := 2, fields := { f := flag, imms := [addr.toNat] } }
  | .jrRel off => { family := .jr, index := 0, fields := { imms := [off.toNat] } }
  | .callImm addr => { family := .call, index := 0, fields := { imms := [addr.toNat] } }
  | .callReg r => { family := .call, index := 1, fields := { f := r } }
  | .callCond flag addr => { family := .call, index := 2, fields := { f := flag, imms := [addr.toNat] } }
  | .callrRel off => { family := .callr, index := 0, fields := { imms := [off.toNat] } }
  | .ret => { family := .ret, index := 0 }
  | .retif flag => { family := .retif, index := 0, fields := { f := flag } }
  | .scpRR8 a b => { family := .scp, index := 0, fields := { a := a, b := b } }
  | .scpRR16 a b => { family := .scp, index := 1, fields := { a := a, b := b } }
  | .scpRR24 a b => { family := .scp, index := 2, fields := { a := a, b := b } }
  | .scpRR32 a b => { family := .scp, index := 3, fields := { a := a, b := b } }
  | .scpRI8 a imm => { family := .scp, index := 4, fields := { a := a, imms := [imm.toNat] } }
  | .scpRI16 a imm => { family := .scp, index := 5, fields := { a := a, imms := [imm.toNat] } }
  | .scpRI24 a imm => { family := .scp, index := 6, fields := { a := a, imms := [imm.toNat] } }
  | .scpRI32 a imm => { family := .scp, index := 7, fields := { a := a, imms := [imm.toNat] } }
  | .scpRMr8 a b => { family := .scp, index := 8, fields := { a := a, b := b } }
  | .scpRMr16 a b => { family := .scp, index := 9, fields := { a := a, b := b } }
  | .scpRMr24 a b => { family := .scp, index := 10, fields := { a := a, b := b } }
  | .scpRMr32 a b => { family := .scp, index := 11, fields := { a := a, b := b } }
  | .scpRMa8 a addr => { family := .scp, index := 12, fields := { a := a, imms := [addr.toNat] } }
  | .scpRMa16 a addr => { family := .scp, index := 13, fields := { a := a, imms := [addr.toNat] } }
  | .scpRMa24 a addr => { family := .scp, index := 14, fields := { a := a, imms := [addr.toNat] } }
  | .scpRMa32 a addr => { family := .scp, index := 15, fields := { a := a, imms := [addr.toNat] } }
  | .scpMrR8 a b => { family := .scp, index := 16, fields := { a := a, b := b } }
  | .scpMrR16 a b => { family := .scp, index := 17, fields := { a := a, b := b } }
  | .scpMrR24 a b => { family := .scp, index := 18, fields := { a := a, b := b } }
  | .scpMrR32 a b => { family := .scp, index := 19, fields := { a := a, b := b } }
  | .scpMaR8 addr a => { family := .scp, index := 20, fields := { a := a, imms := [addr.toNat] } }
  | .scpMaR16 addr a => { family := .scp, index := 21, fields := { a := a, imms := [addr.toNat] } }
  | .scpMaR24 addr a => { family := .scp, index := 22, fields := { a := a, imms := [addr.toNat] } }
  | .scpMaR32 addr a => { family := .scp, index := 23, fields := { a := a, imms := [addr.toNat] } }
  | .scpMrI8 a imm => { family := .scp, index := 24, fields := { a := a, imms := [imm.toNat] } }
  | .scpMrI16 a imm => { family := .scp, index := 25, fields := { a := a, imms := [imm.toNat] } }
  | .scpMrI24 a imm => { family := .scp, index := 26, fields := { a := a, imms := [imm.toNat] } }
  | .scpMrI32 a imm => { family := .scp, index := 27, fields := { a := a, imms := [imm.toNat] } }
  | .scpMaI8 addr imm => { family := .scp, index := 28, fields := { imms := [addr.toNat, imm.toNat] } }
  | .scpMaI16 addr imm => { family := .scp, index := 29, fields := { imms := [addr.toNat, imm.toNat] } }
  | .scpMaI24 addr imm => { family := .scp, index := 30, fields := { imms := [addr.toNat, imm.toNat] } }
  | .scpMaI32 addr imm => { family := .scp, index := 31, fields := { imms := [addr.toNat, imm.toNat] } }
  | .sqrFF fa fb => { family := .sqr, index := 0, fields := { fa := fa, fb := fb } }
  | .sqrFR8 fb a => { family := .sqr, index := 1, fields := { a := a, b := fb.setWidth 5 } }
  | .sqrFR16 fb a => { family := .sqr, index := 2, fields := { a := a, b := fb.setWidth 5 } }
  | .sqrFR24 fb a => { family := .sqr, index := 3, fields := { a := a, b := fb.setWidth 5 } }
  | .sqrFR32 fb a => { family := .sqr, index := 4, fields := { a := a, b := fb.setWidth 5 } }
  | .sqrRF8 a fb => { family := .sqr, index := 5, fields := { a := a, b := fb.setWidth 5 } }
  | .sqrRF16 a fb => { family := .sqr, index := 6, fields := { a := a, b := fb.setWidth 5 } }
  | .sqrRF24 a fb => { family := .sqr, index := 7, fields := { a := a, b := fb.setWidth 5 } }
  | .sqrRF32 a fb => { family := .sqr, index := 8, fields := { a := a, b := fb.setWidth 5 } }
  | .sqrFMr fb a => { family := .sqr, index := 9, fields := { a := a, b := fb.setWidth 5 } }
  | .sqrMrF a fb => { family := .sqr, index := 10, fields := { a := a, b := fb.setWidth 5 } }
  | .sqrFMa fa addr => { family := .sqr, index := 11, fields := { fa := fa, imms := [addr.toNat] } }
  | .sqrMaF addr fa => { family := .sqr, index := 12, fields := { fa := fa, imms := [addr.toNat] } }
  | .cbrFF fa fb => { family := .cbr, index := 0, fields := { fa := fa, fb := fb } }
  | .cbrFR8 fb a => { family := .cbr, index := 1, fields := { a := a, b := fb.setWidth 5 } }
  | .cbrFR16 fb a => { family := .cbr, index := 2, fields := { a := a, b := fb.setWidth 5 } }
  | .cbrFR24 fb a => { family := .cbr, index := 3, fields := { a := a, b := fb.setWidth 5 } }
  | .cbrFR32 fb a => { family := .cbr, index := 4, fields := { a := a, b := fb.setWidth 5 } }
  | .cbrRF8 a fb => { family := .cbr, index := 5, fields := { a := a, b := fb.setWidth 5 } }
  | .cbrRF16 a fb => { family := .cbr, index := 6, fields := { a := a, b := fb.setWidth 5 } }
  | .cbrRF24 a fb => { family := .cbr, index := 7, fields := { a := a, b := fb.setWidth 5 } }
  | .cbrRF32 a fb => { family := .cbr, index := 8, fields := { a := a, b := fb.setWidth 5 } }
  | .cbrFMr fb a => { family := .cbr, index := 9, fields := { a := a, b := fb.setWidth 5 } }
  | .cbrMrF a fb => { family := .cbr, index := 10, fields := { a := a, b := fb.setWidth 5 } }
  | .cbrFMa fa addr => { family := .cbr, index := 11, fields := { fa := fa, imms := [addr.toNat] } }
  | .cbrMaF addr fa => { family := .cbr, index := 12, fields := { fa := fa, imms := [addr.toNat] } }
  | .powFF fa fb => { family := .pow, index := 0, fields := { fa := fa, fb := fb } }
  | .powFR8 fb a => { family := .pow, index := 1, fields := { a := a, b := fb.setWidth 5 } }
  | .powFR16 fb a => { family := .pow, index := 2, fields := { a := a, b := fb.setWidth 5 } }
  | .powFR24 fb a => { family := .pow, index := 3, fields := { a := a, b := fb.setWidth 5 } }
  | .powFR32 fb a => { family := .pow, index := 4, fields := { a := a, b := fb.setWidth 5 } }
  | .powRF8 a fb => { family := .pow, index := 5, fields := { a := a, b := fb.setWidth 5 } }
  | .powRF16 a fb => { family := .pow, index := 6, fields := { a := a, b := fb.setWidth 5 } }
  | .powRF24 a fb => { family := .pow, index := 7, fields := { a := a, b := fb.setWidth 5 } }
  | .powRF32 a fb => { family := .pow, index := 8, fields := { a := a, b := fb.setWidth 5 } }
  | .powFMr fb a => { family := .pow, index := 9, fields := { a := a, b := fb.setWidth 5 } }
  | .powMrF a fb => { family := .pow, index := 10, fields := { a := a, b := fb.setWidth 5 } }
  | .powFMa fa addr => { family := .pow, index := 11, fields := { fa := fa, imms := [addr.toNat] } }
  | .powMaF addr fa => { family := .pow, index := 12, fields := { fa := fa, imms := [addr.toNat] } }
  | .sinFF fa fb => { family := .sin, index := 0, fields := { fa := fa, fb := fb } }
  | .sinFR8 fb a => { family := .sin, index := 1, fields := { a := a, b := fb.setWidth 5 } }
  | .sinFR16 fb a => { family := .sin, index := 2, fields := { a := a, b := fb.setWidth 5 } }
  | .sinFR24 fb a => { family := .sin, index := 3, fields := { a := a, b := fb.setWidth 5 } }
  | .sinFR32 fb a => { family := .sin, index := 4, fields := { a := a, b := fb.setWidth 5 } }
  | .sinRF8 a fb => { family := .sin, index := 5, fields := { a := a, b := fb.setWidth 5 } }
  | .sinRF16 a fb => { family := .sin, index := 6, fields := { a := a, b := fb.setWidth 5 } }
  | .sinRF24 a fb => { family := .sin, index := 7, fields := { a := a, b := fb.setWidth 5 } }
  | .sinRF32 a fb => { family := .sin, index := 8, fields := { a := a, b := fb.setWidth 5 } }
  | .sinFMr fb a => { family := .sin, index := 9, fields := { a := a, b := fb.setWidth 5 } }
  | .sinMrF a fb => { family := .sin, index := 10, fields := { a := a, b := fb.setWidth 5 } }
  | .sinFMa fa addr => { family := .sin, index := 11, fields := { fa := fa, imms := [addr.toNat] } }
  | .sinMaF addr fa => { family := .sin, index := 12, fields := { fa := fa, imms := [addr.toNat] } }
  | .floorFF fa fb => { family := .floor, index := 0, fields := { fa := fa, fb := fb } }
  | .floorFR8 fb a => { family := .floor, index := 1, fields := { a := a, b := fb.setWidth 5 } }
  | .floorFR16 fb a => { family := .floor, index := 2, fields := { a := a, b := fb.setWidth 5 } }
  | .floorFR24 fb a => { family := .floor, index := 3, fields := { a := a, b := fb.setWidth 5 } }
  | .floorFR32 fb a => { family := .floor, index := 4, fields := { a := a, b := fb.setWidth 5 } }
  | .floorRF8 a fb => { family := .floor, index := 5, fields := { a := a, b := fb.setWidth 5 } }
  | .floorRF16 a fb => { family := .floor, index := 6, fields := { a := a, b := fb.setWidth 5 } }
  | .floorRF24 a fb => { family := .floor, index := 7, fields := { a := a, b := fb.setWidth 5 } }
  | .floorRF32 a fb => { family := .floor, index := 8, fields := { a := a, b := fb.setWidth 5 } }
  | .floorFMr fb a => { family := .floor, index := 9, fields := { a := a, b := fb.setWidth 5 } }
  | .floorMrF a fb => { family := .floor, index := 10, fields := { a := a, b := fb.setWidth 5 } }
  | .floorFMa fa addr => { family := .floor, index := 11, fields := { fa := fa, imms := [addr.toNat] } }
  | .floorMaF addr fa => { family := .floor, index := 12, fields := { fa := fa, imms := [addr.toNat] } }
  | .roundFF fa fb => { family := .round, index := 0, fields := { fa := fa, fb := fb } }
  | .roundFR8 fb a => { family := .round, index := 1, fields := { a := a, b := fb.setWidth 5 } }
  | .roundFR16 fb a => { family := .round, index := 2, fields := { a := a, b := fb.setWidth 5 } }
  | .roundFR24 fb a => { family := .round, index := 3, fields := { a := a, b := fb.setWidth 5 } }
  | .roundFR32 fb a => { family := .round, index := 4, fields := { a := a, b := fb.setWidth 5 } }
  | .roundRF8 a fb => { family := .round, index := 5, fields := { a := a, b := fb.setWidth 5 } }
  | .roundRF16 a fb => { family := .round, index := 6, fields := { a := a, b := fb.setWidth 5 } }
  | .roundRF24 a fb => { family := .round, index := 7, fields := { a := a, b := fb.setWidth 5 } }
  | .roundRF32 a fb => { family := .round, index := 8, fields := { a := a, b := fb.setWidth 5 } }
  | .roundFMr fb a => { family := .round, index := 9, fields := { a := a, b := fb.setWidth 5 } }
  | .roundMrF a fb => { family := .round, index := 10, fields := { a := a, b := fb.setWidth 5 } }
  | .roundFMa fa addr => { family := .round, index := 11, fields := { fa := fa, imms := [addr.toNat] } }
  | .roundMaF addr fa => { family := .round, index := 12, fields := { fa := fa, imms := [addr.toNat] } }
  | .memcRRR a b c => { family := .memc, index := 0, fields := { a := a, b := b, c := c } }
  | .memcRRI a b len => { family := .memc, index := 1, fields := { a := a, b := b, imms := [len.toNat] } }
  | .memcRIR a dst c => { family := .memc, index := 2, fields := { a := a, c := c, imms := [dst.toNat] } }
  | .memcRII a dst len => { family := .memc, index := 3, fields := { a := a, imms := [dst.toNat, len.toNat] } }
  | .memcIRR src b c => { family := .memc, index := 4, fields := { b := b, c := c, imms := [src.toNat] } }
  | .memcIRI src b len => { family := .memc, index := 5, fields := { b := b, imms := [src.toNat, len.toNat] } }
  | .memcIIR src dst c => { family := .memc, index := 6, fields := { c := c, imms := [src.toNat, dst.toNat] } }
  | .memcIII src dst len => { family := .memc, index := 7, fields := { imms := [src.toNat, dst.toNat, len.toNat] } }
  | .memfRRR a b c => { family := .memf, index := 0, fields := { a := a, b := b, c := c } }
  | .memfRRI a b len => { family := .memf, index := 1, fields := { a := a, b := b, imms := [len.toNat] } }
  | .memfRIR a addr c => { family := .memf, index := 2, fields := { a := a, c := c, imms := [addr.toNat] } }
  | .memfRII a addr len => { family := .memf, index := 3, fields := { a := a, imms := [addr.toNat, len.toNat] } }
  | .memfIRR val b c => { family := .memf, index := 4, fields := { b := b, c := c, imms := [val.toNat] } }
  | .memfIRI val b len => { family := .memf, index := 5, fields := { b := b, imms := [val.toNat, len.toNat] } }
  | .memfIIR val addr c => { family := .memf, index := 6, fields := { c := c, imms := [val.toNat, addr.toNat] } }
  | .memfIII val addr len => { family := .memf, index := 7, fields := { imms := [val.toNat, addr.toNat, len.toNat] } }
  | .findBI a n => { family := .find, index := 0, fields := { a := a, imms := [n.toNat] } }
  | .findBR a b => { family := .find, index := 1, fields := { a := a, b := b } }
  | .findPA a addr => { family := .find, index := 2, fields := { a := a, imms := [addr.toNat] } }
  | .findPR a b => { family := .find, index := 3, fields := { a := a, b := b } }
  | .ldregsMa a b addr => { family := .ldregs, index := 0, fields := { a := a, b := b, imms := [addr.toNat] } }
  | .ldregsMr a b c => { family := .ldregs, index := 1, fields := { a := a, b := b, c := c } }
  | .stregsMa a b addr => { family := .stregs, index := 0, fields := { a := a, b := b, imms := [addr.toNat] } }
  | .stregsMr a b c => { family := .stregs, index := 1, fields := { a := a, b := b, c := c } }
  | .ex8 a b => { family := .ex, index := 0, fields := { a := a, b := b } }
  | .ex16 a b => { family := .ex, index := 1, fields := { a := a, b := b } }
  | .ex24 a b => { family := .ex, index := 2, fields := { a := a, b := b } }
  | .ex32 a b => { family := .ex, index := 3, fields := { a := a, b := b } }
  | .bankselI n => { family := .banksel, index := 0, fields := { imms := [n.toNat] } }
  | .bankselR r => { family := .banksel, index := 1, fields := { f := r } }
  | .rand8 a => { family := .rand, index := 0, fields := { a := a } }
  | .rand16 a => { family := .rand, index := 1, fields := { a := a } }
  | .rand24 a => { family := .rand, index := 2, fields := { a := a } }
  | .rand32 a => { family := .rand, index := 3, fields := { a := a } }
  | .randSeedI seed => { family := .rand, index := 4, fields := { imms := [seed.toNat] } }
  | .randSeedR a => { family := .rand, index := 5, fields := { a := a } }
  | .waitI ms => { family := .wait, index := 0, fields := { imms := [ms.toNat] } }
  | .waitR r => { family := .wait, index := 1, fields := { f := r } }
  | .setvarII index value => { family := .setvar, index := 0, fields := { imms := [index.toNat, value.toNat] } }
  | .setvarRI a value => { family := .setvar, index := 1, fields := { a := a, imms := [value.toNat] } }
  | .setvarIR index b => { family := .setvar, index := 2, fields := { b := b, imms := [index.toNat] } }
  | .setvarRR a b => { family := .setvar, index := 3, fields := { a := a, b := b } }
  | .getvarI a index => { family := .getvar, index := 0, fields := { a := a, imms := [index.toNat] } }
  | .getvarR a b => { family := .getvar, index := 1, fields := { a := a, b := b } }
  | .smulRR8 a b => { family := .smul, index := 0, fields := { a := a, b := b } }
  | .smulRR16 a b => { family := .smul, index := 1, fields := { a := a, b := b } }
  | .smulRR24 a b => { family := .smul, index := 2, fields := { a := a, b := b } }
  | .smulRR32 a b => { family := .smul, index := 3, fields := { a := a, b := b } }
  | .smulRI8 a imm => { family := .smul, index := 4, fields := { a := a, imms := [imm.toNat] } }
  | .smulRI16 a imm => { family := .smul, index := 5, fields := { a := a, imms := [imm.toNat] } }
  | .smulRI24 a imm => { family := .smul, index := 6, fields := { a := a, imms := [imm.toNat] } }
  | .smulRI32 a imm => { family := .smul, index := 7, fields := { a := a, imms := [imm.toNat] } }
  | .play => { family := .play, index := 0 }
  | .vclI n => { family := .vcl, index := 0, fields := { imms := [n.toNat] } }
  | .vclR r => { family := .vcl, index := 1, fields := { f := r } }
  | .vdlI n => { family := .vdl, index := 0, fields := { imms := [n.toNat] } }
  | .vdlR r => { family := .vdl, index := 1, fields := { f := r } }
  | .int r n arg => { family := .int, index := 0, fields := { f := r, imms := [n.toNat, arg.toNat] } }
  | .brk => { family := .brk, index := 0 }

/-- The low bits of the sub-opcode that are not the variant (R115). -/
def Fields.subLow (f : Fields) : Format → Nat
  | .p => 0
  | .s5 => f.f.toNat
  | .m2 => (f.a.extractLsb' 3 2).toNat
  | .m3 => (f.a.extractLsb' 3 2).toNat
  | .f2 => 0

/-- The format bytes after the sub-opcode (R115), ignored bits 0. -/
def Fields.formatBytes (f : Fields) : Format → List Byte
  | .p => []
  | .s5 => []
  | .m2 => [(f.a.extractLsb' 0 3 ++ f.b : BitVec 8)]
  | .m3 => [(f.a.extractLsb' 0 3 ++ f.b : BitVec 8), f.c.setWidth 8]
  | .f2 => [(f.fa ++ f.fb : BitVec 8)]

/-- The trailing fields' bytes (R116). -/
def trailBytes : List Nat → List Nat → List Byte
  | [], _ => []
  | n :: ns, vs => natToBe n (vs.headD 0) ++ trailBytes ns vs.tail

/-- The bytes of an instruction. PLAY, whose layout is not in the source, is given its primary byte and a zero. -/
noncomputable def encodeWith (e : Encoding) (i : Instr) : List Byte :=
  let c := i.code
  let fc := e.code c.family
  match c.family, c.family.rows[c.index]? with
  | .brk, _ => [fc.opc]
  | _, none => [fc.opc, 0]
  | _, some r =>
    let vc := fc.codes.getD c.index default
    fc.opc :: BitVec.ofNat 8 (vc.v * 2 ^ vc.k + c.fields.subLow r.fmt)
      :: (c.fields.formatBytes r.fmt ++ trailBytes r.trail c.fields.imms)

/-! ## The illustrative assignment TEA (92_eei_decisions.md D50)

DESIGN CHOICE (log 2): the tables are OPEN; this is the value they have at launch unless the launch parameters say
otherwise. It is not the hardware's encoding. -/

/-- The TEA row of a family: variants count up from 0, "every other primary and sub-opcode value is a `Miss`". PLAY has no
form and no miss: every PLAY encoding is refused (30_encoding.md R131). -/
def teaRow (m : Family) (opc : Byte) : FamilyCode where
  opc := opc
  codes := (List.range m.formCount).map (fun v => ⟨m.shift, v⟩)
  misses := if m.formCount = 0 then [] else
    if m.formCount * 2 ^ m.shift ≤ 255 then [(m.formCount * 2 ^ m.shift, 255)] else []

/-- The TEA tables: primary bytes 0x01 to 0x30 in family order. -/
def teaEncoding : Encoding where
  families := Family.all.map (fun m => teaRow m (BitVec.ofNat 8 (m.index + 1)))
  primaryMisses := [(0x00, 0x00), (0x31, 0xFF)]

/-- Decoding under the TEA. -/
noncomputable def decode (bs : List Byte) : Decoded := decodeWith teaEncoding bs

/-- Encoding under the TEA. -/
noncomputable def encode (i : Instr) : List Byte := encodeWith teaEncoding i

/-- The longest instruction, in bytes (30_encoding.md R110: MEMC.III). -/
abbrev maxLength : Nat := 13

/-- The `n` bytes of `w`, the least significant first: the layout in which opcode_table.json numbers an instruction's
bits, its first byte lowest. -/
def tableBytes : Nat → Nat → List Byte
  | 0, _ => []
  | n + 1, w => BitVec.ofNat 8 w :: tableBytes n (w / 256)

/-- The instruction the decoder reads from the `nbits` low bits of `w`, every later bit 0. -/
noncomputable def decodeTableWord (nbits w : Nat) : Option Instr :=
  match decode (tableBytes maxLength (w % 2 ^ nbits)) with
  | .instr i _ => some i
  | _ => none

end Sys2Proof
end

