-- ==== Sys2Proof/Machine/Store.lean ====
section
/-! DEFINITION. A sparse map from numbers to values as a list of pairs in one canonical form (keys strictly rising), for
the flat memory (20_memory.md R81) and the high-memory variable store (10_state.md R48). An unlisted key has no value: a
memory byte nothing has written is UNDEF, a HMEM key nothing has written does not exist. -/

namespace Sys2Proof.Machine

/-- The value at a key, if it has one. -/
def Store.get {α : Type} : List (Nat × α) → Nat → Option α
  | [], _ => none
  | (k, v) :: m, a => if a = k then some v else Store.get m a

/-- Give a key a value, keeping the keys rising. -/
def Store.put {α : Type} : List (Nat × α) → Nat → α → List (Nat × α)
  | [], a, v => [(a, v)]
  | (k, w) :: m, a, v =>
    if a < k then (a, v) :: (k, w) :: m
    else if a = k then (a, v) :: m
    else (k, w) :: Store.put m a v

/-- Take the value away from every key of a set. -/
def Store.drop {α : Type} (p : Nat → Bool) (m : List (Nat × α)) : List (Nat × α) := m.filter (fun c => !p c.1)

/-- The canonical form of the pairs with keys below a bound; a later pair of one key wins. -/
def Store.normal {α : Type} (bound : Nat) (m : List (Nat × α)) : List (Nat × α) :=
  m.foldl (fun acc c => if c.1 < bound then Store.put acc c.1 c.2 else acc) []

/-- Keys strictly rise and lie below the bound. No listed value can equal what an unlisted key reads as, because an
unlisted key has no value. -/
abbrev Store.Wf {α : Type} (bound : Nat) (m : List (Nat × α)) : Prop :=
  m.Pairwise (fun c d => c.1 < d.1) ∧ ∀ c ∈ m, c.1 < bound

end Sys2Proof.Machine
end

