-- ==== Sys2Proof/Machine/State.lean ====
section
/-! DEFINITION. The state of the core (10_state.md R30), the reasons a step can stop (60_exceptions.md R424, R426), and the
state after reset (10_state.md R53, 70_reset_and_hazards.md R450). -/

namespace Sys2Proof.Machine

/-- The model faults of 60_exceptions.md R424: the spec's own answer where its source says nothing. All are SAFE: the model
stops where the hardware may go on. The `start` IPO a fault is recorded with (R165) is the IPO of the state `step` was applied
to: see `faultRecord`. -/
inductive Fault where
  /-- Raised by the fetch of an instruction byte at `IPO >= MEM_SIZE` (20_memory.md R91). Safe. -/
  | fetchOutOfRange
  /-- Raised by a data access or block that reaches an address `>= MEM_SIZE` (20_memory.md R85) and by an unterminated FIND
  pattern (45_bulk_memory.md R354). Safe. -/
  | memOutOfRange
  /-- Raised by a read of UNDEF (60_exceptions.md R425): a fetch or data read of a memory byte that nothing has written
  (20_memory.md R81), an integer register view with an UNDEF byte or bit (10_state.md R33), an UNDEF float register (R39), an
  UNDEF flag (40_dispatch.md R170). Safe. -/
  | readUndefined
  /-- Raised by a register access with an index `>= NUM_INT_REGS` (10_state.md R32). Safe. -/
  | regIndexOutOfRange
  /-- Raised by BANKSEL of a bank `>= NUM_BANKS` (46_misc_system.md R382). Safe. -/
  | bankOutOfRange
  /-- Raised by a push with `SPC = CALL_STACK_DEPTH` (10_state.md R47). Safe. -/
  | callStackOverflow
  /-- Raised by GETVAR of a key never written (46_misc_system.md R387). Safe. -/
  | hmemUnwritten
deriving DecidableEq, Repr, Inhabited

/-- The refusals of 60_exceptions.md R426, and the one for an instruction not modelled yet. All are SAFE: the model gives no
meaning. -/
inductive Refusal where
  /-- Raised by no arm of this model: every instruction has its meaning. Safe. -/
  | notModelled (mnemonic : String)
  /-- Raised by a byte value the tables do not classify (30_encoding.md R131) and by PLAY (46_misc_system.md R389). Safe. -/
  | unknownEncoding
  /-- Raised by SMUL with a non-zero source (46_misc_system.md R388). Safe. -/
  | semanticsNotInSource
deriving DecidableEq, Repr, Inhabited

/-- A call to an external collaborator (00_scope.md R11, R16; 46_misc_system.md R380). -/
inductive HostEvent where
  /-- WAIT (46_misc_system.md R385). -/
  | wait (ms : BitVec 16)
  /-- SMUL with a zero source (46_misc_system.md R388): `HostEvent(RuntimeError, SMUL)`. -/
  | runtimeErrorSmul
  /-- VCL (46_misc_system.md R390). -/
  | manualClearBackBuffer (b : Byte)
  /-- VDL (46_misc_system.md R391). -/
  | manualUpdateBackBuffer (b : Byte)
  /-- INT (46_misc_system.md R393). -/
  | interrupt (number arg : Byte) (reg : RegIx)
deriving DecidableEq, Repr, Inhabited

/-- One register bank (10_state.md R33, R39): the integer storage of either layout, of which `REG_LAYOUT` says which one is
the register file, the 16 float registers, and beside each its UNDEF marks (00_scope.md R11). What is marked UNDEF holds a
free value that no instruction can read. -/
structure Bank where
  /-- `B[0..31]`, the byte cells of `ByteOverlap`. -/
  bytes : Vector Byte 32
  /-- `C[0..31]`, the 32-bit cells of `Cell32`. -/
  words : Vector Word 32
  /-- `f0` to `f15`, binary32 patterns. -/
  floats : Vector Word 16
  /-- Which byte cells are UNDEF. -/
  bytesUndef : Vector Bool 32
  /-- Which bits of the 32-bit cells are UNDEF. -/
  wordsUndef : Vector Word 32
  /-- Which float registers are UNDEF. -/
  floatsUndef : Vector Bool 16
deriving DecidableEq, Repr, Inhabited

/-- The word with every bit `b`. -/
abbrev allBits (b : Bool) : Word := if b then 0xFFFFFFFF else 0

/-- A bank as it is after reset: every register 0 and, by `undef`, UNDEF or defined. DESIGN CHOICE (log 3): the spec leaves
every register UNDEF. -/
def Bank.fresh (undef : Bool) : Bank where
  bytes := Vector.replicate 32 0
  words := Vector.replicate 32 0
  floats := Vector.replicate 16 0
  bytesUndef := Vector.replicate 32 undef
  wordsUndef := Vector.replicate 32 (allBits undef)
  floatsUndef := Vector.replicate 16 undef

/-- The state of the machine (10_state.md R30), with three fields of the model's own: `params`, `draws`, `events`. -/
structure State where
  /-- The parameters of 00_scope.md R7; no step writes them. -/
  params : Params
  /-- The `NUM_BANKS` register banks (10_state.md R38). -/
  banks : List Bank
  /-- `BANK` (10_state.md R37). -/
  bank : Nat
  /-- `FLAG` (10_state.md R41). -/
  flag : Word
  /-- Which bits of `FLAG` are UNDEF (10_state.md R41, 00_scope.md R11). -/
  flagUndef : Word
  /-- `IPO` (10_state.md R44). -/
  ipo : Word
  /-- `SPC` (10_state.md R45). -/
  spc : Nat
  /-- `CS[0 .. CALL_STACK_DEPTH - 1]` (10_state.md R45). -/
  cs : List Word
  /-- `HMEM`: canonical pairs of key and value, keys below 2^32 (10_state.md R48). -/
  hmem : List (Nat × Word)
  /-- `RUNNING` (10_state.md R49). -/
  running : Bool
  /-- `RNG` (10_state.md R50); its width is not in the spec. -/
  rng : Word
  /-- The flat memory: canonical pairs of address and byte (20_memory.md R80, R81). -/
  mem : List Host.Cell
  /-- The index of the next free value (`Config.freeWord`). -/
  draws : Nat
  /-- The record of host events, newest first (00_scope.md R11). -/
  events : List HostEvent
deriving DecidableEq, Repr, Inhabited

/-- `HMEM` keys are 32 bits. -/
abbrev hmemSize : Nat := 4294967296

/-- The state a reset creates (10_state.md R53, 70_reset_and_hazards.md R450) from launch parameters, the `HMEM` contents that
survive, and the model's own counter and record. -/
def State.boot (p : Params) (hmem : List (Nat × Word)) (draws : Nat) (events : List HostEvent) : State where
  params := p
  banks := List.replicate p.numBanks (Bank.fresh p.undefAtReset)
  bank := p.bankAtReset
  flag := 0
  flagUndef := allBits p.undefAtReset
  ipo := p.entry
  spc := 0
  cs := List.replicate p.callStackDepth 0
  hmem := hmem
  running := true
  rng := 0
  mem := Store.normal memSize p.image
  draws := draws
  events := events

/-- The launch parameters of `State.reset`: the defaults of 00_scope.md R7 where it gives one; where it gives none, the values
of logs 2, 3, 6 and 7 (DESIGN CHOICE). -/
def Params.launch : Params where
  numIntRegs := 32
  regLayout := .byteOverlap
  numBanks := 256
  bankAtReset := 0
  ovfBit := .bit3
  bitFlag := 0
  bitSense := .bitValue
  callStackDepth := 256
  hmemClearedOnReset := true
  bitviewOrder := .msbFirst
  memcOverlap := .forwardBytewise
  hostMemFootprint := [(0, 0xFFFFFF)]
  entry := 0
  image := []
  encoding := teaEncoding
  undefAtReset := false

/-- The machine right after its first reset, nothing loaded (10_state.md R53). -/
def State.reset : State := State.boot Params.launch [] 0 []

end Sys2Proof.Machine
end

