-- ==== Sys2Proof/Machine/Ops.lean ====
section
/-! DEFINITION. The named operations over registers, memory, the call stack, the flags, free values and host events: all
reads and writes of state go through these (10_state.md, 20_memory.md). An operation that can fault answers in
`Except Fault`.

There is no trap mechanism (60_exceptions.md R427, R428): no exception is entered and none is returned from. The one
architected stop is `State.halt` (R422). -/

namespace Sys2Proof.Machine

/-- The outcome of a step of this machine. -/
abbrev Out := Host.Outcome State Fault Refusal

/-- An answer of the operations as the outcome of a step: a model fault ends the run (60_exceptions.md R424). -/
def finish : Except Fault State → Out
  | .ok s => .next s
  | .error f => .fault f

/-! ## Free values (00_scope.md R11: `draw` and UNDEF) -/

/-- The next free value, not yet used up. -/
def State.free (s : State) : Word := Config.freeWord s.draws

/-- Use up the next free value. -/
def State.tick (s : State) : State := { s with draws := s.draws + 1 }

/-! ## Integer registers (10_state.md R31 to R37) -/

/-- The active bank (R37). -/
def State.activeBank (s : State) : Bank := s.banks.getD s.bank (Bank.fresh false)

/-- Replace the active bank's storage. -/
def State.setActiveBank (s : State) (b : Bank) : State := { s with banks := s.banks.set s.bank b }

/-- The cell with index `j mod n`. -/
def cellIndex (n j : Nat) : Fin 32 := Fin.ofNat 32 (j % n)

/-- Cells `i, i+1, ...` of the byte cells or of their UNDEF marks, wrapping after cell `n - 1` (R33, `ByteOverlap`). -/
def readCells {α : Type} (n : Nat) (b : Vector α 32) (i : Nat) : Nat → List α
  | 0 => []
  | k + 1 => b.get (cellIndex n i) :: readCells n b (i + 1) k

/-- Write cells `i, i+1, ...`, wrapping after cell `n - 1` (R34, `ByteOverlap`). -/
def setCells {α : Type} (n : Nat) (b : Vector α 32) (i : Nat) : List α → Vector α 32
  | [] => b
  | x :: xs => setCells n (b.set (cellIndex n i) x) (i + 1) xs

/-- The bits of `xW[i]` in the active bank (R33), for an index that exists. They are its value unless `viewUndef`. -/
def State.view (s : State) (w : Width) (i : RegIx) : BitVec w.bits :=
  match s.params.regLayout with
  | .byteOverlap => BitVec.ofNat w.bits (beToNat (readCells s.params.numIntRegs s.activeBank.bytes i.toNat w.bytes))
  | .cell32 => (s.activeBank.words.get i.toFin).setWidth w.bits

/-- A byte (`ByteOverlap`) or bit (`Cell32`) that `xW[i]` reads is UNDEF (R33). -/
def State.viewUndef (s : State) (w : Width) (i : RegIx) : Bool :=
  match s.params.regLayout with
  | .byteOverlap => (readCells s.params.numIntRegs s.activeBank.bytesUndef i.toNat w.bytes).any id
  | .cell32 => (s.activeBank.wordsUndef.get i.toFin).setWidth w.bits != 0

/-- A word whose low `W` bits are `v` and whose bits above are `high`'s. -/
def overlay (w : Width) (high : Word) (v : BitVec w.bits) : Word :=
  ((high >>> w.bits) <<< w.bits) ||| v.setWidth 32

/-- `xW[i] <- v` in the active bank (R34), for an index that exists, with every byte or bit of the view marked UNDEF or
defined. Under `Cell32` a narrow write leaves the bits above UNDEF, with a free value. -/
def State.putView (s : State) (w : Width) (i : RegIx) (v : BitVec w.bits) (undef : Bool) : State :=
  let b := s.activeBank
  let n : Nat := s.params.numIntRegs
  let marks := b.wordsUndef.set i.toFin (overlay w (allBits true) ((allBits undef).setWidth w.bits))
  match s.params.regLayout with
  | .byteOverlap =>
    s.setActiveBank { b with
      bytes := setCells n b.bytes i.toNat (natToBe w.bytes v.toNat)
      bytesUndef := setCells n b.bytesUndef i.toNat (List.replicate w.bytes undef) }
  | .cell32 =>
    if w = .w32 then s.setActiveBank { b with words := b.words.set i.toFin (v.setWidth 32), wordsUndef := marks }
    else s.tick.setActiveBank { b with words := b.words.set i.toFin (overlay w s.free v), wordsUndef := marks }

/-- `xW[i] <- v` (R34), for an index that exists. -/
def State.setView (s : State) (w : Width) (i : RegIx) (v : BitVec w.bits) : State := s.putView w i v false

/-- Write UNDEF to a view: every byte or bit of it becomes UNDEF, with a free value (42_shift_bit.md R240). -/
def State.setViewFree (s : State) (w : Width) (i : RegIx) : State := s.tick.putView w i (s.free.setWidth w.bits) true

/-- The index exists, or `RegIndexOutOfRange` (R32). A view that starts at an existing index wraps below `NUM_INT_REGS`. -/
def checkReg (i : RegIx) (s : State) : Except Fault Unit :=
  if i.toNat < s.params.numIntRegs then .ok () else .error .regIndexOutOfRange

/-- Read `xW[i]`; a view with an UNDEF byte or bit faults (R33). -/
def readReg (w : Width) (i : RegIx) (s : State) : Except Fault (BitVec w.bits) := do
  checkReg i s
  if s.viewUndef w i then .error .readUndefined else return s.view w i

/-- `xW[i] <- v`. -/
def writeReg (w : Width) (i : RegIx) (v : BitVec w.bits) (s : State) : Except Fault State := do
  checkReg i s
  return s.setView w i v

/-! ## Float registers (10_state.md R39, R40) -/

/-- The bits of `f[j]` in the active bank. They are its value unless `floatUndef`. -/
def State.float (s : State) (j : FloatIx) : Word := s.activeBank.floats.get j.toFin

/-- `f[j]` is UNDEF. -/
def State.floatUndef (s : State) (j : FloatIx) : Bool := s.activeBank.floatsUndef.get j.toFin

/-- Read `f[j]`; an UNDEF one faults (R39). -/
def readFloatReg (j : FloatIx) (s : State) : Except Fault Word :=
  if s.floatUndef j then .error .readUndefined else .ok (s.float j)

/-- `f[j] <- p` in the active bank. -/
def State.setFloat (s : State) (j : FloatIx) (p : Word) : State :=
  s.setActiveBank { s.activeBank with
    floats := s.activeBank.floats.set j.toFin p
    floatsUndef := s.activeBank.floatsUndef.set j.toFin false }

/-! ## Flat memory (20_memory.md R81 to R85) -/

/-- The canonical form of the memory. -/
abbrev Memory.wf (m : List Host.Cell) : Prop := Store.Wf memSize m

/-- The byte at an address, if it is defined. -/
def State.byte? (s : State) (a : Nat) : Option Byte := Store.get s.mem a

/-- `len` bytes at `a` lie in the memory, or `MemOutOfRange`; no byte, no check (R85, 45_bulk_memory.md R350). -/
def checkBlock (a len : Nat) : Except Fault Unit :=
  if len ≠ 0 ∧ memSize < a + len then .error .memOutOfRange else .ok ()

/-- `n` bytes at `a`, lowest address first; an undefined one faults (R81). -/
def memBytes (m : List Host.Cell) : Nat → Nat → Except Fault (List Byte)
  | _, 0 => .ok []
  | a, n + 1 =>
    match Store.get m a with
    | none => .error .readUndefined
    | some b => do return b :: (← memBytes m (a + 1) n)

/-- Store bytes at `a, a+1, ...` (R84). -/
def putBytes (m : List Host.Cell) : Nat → List Byte → List Host.Cell
  | _, [] => m
  | a, b :: bs => putBytes (Store.put m a b) (a + 1) bs

/-- `MemRead(a, W/8)`, big-endian (R83). -/
def readMem (w : Width) (a : Addr) (s : State) : Except Fault (BitVec w.bits) := do
  checkBlock a.toNat w.bytes
  return BitVec.ofNat w.bits (beToNat (← memBytes s.mem a.toNat w.bytes))

/-- `MemWrite(a, W/8, v)`, big-endian (R84). -/
def writeMem (w : Width) (a : Addr) (v : BitVec w.bits) (s : State) : Except Fault State := do
  checkBlock a.toNat w.bytes
  return { s with mem := putBytes s.mem a.toNat (natToBe w.bytes v.toNat) }

/-! ## Bit-addressed memory view (42_shift_bit.md R248) -/

/-- Where in its byte the bit with position `g` stands. -/
def bitPlace (o : BitviewOrder) (g : Nat) : Nat :=
  match o with
  | .msbFirst => 7 - g % 8
  | .lsbFirst => g % 8

/-- The bit of an `n`-bit field value that the field's `j`-th bit position holds. -/
def fieldBit (o : BitviewOrder) (n j : Nat) : Nat :=
  match o with
  | .msbFirst => n - 1 - j
  | .lsbFirst => j

/-- The number with the given bits: bit `k` is `f k`, for `k < n`. -/
def bitsToNat (f : Nat → Bool) : Nat → Nat
  | 0 => 0
  | k + 1 => bitsToNat f k + (if f k then 2 ^ k else 0)

/-- The byte of a list of bytes (the first at address `first`) that holds bit position `g`, and that bit of it. -/
def listBit (o : BitviewOrder) (first : Nat) (bs : List Byte) (g : Nat) : Bool :=
  (bs.getD (g / 8 - first) 0).getLsbD (bitPlace o g)

/-- `BitRead(a, off, W)`: the `W` bits at bit positions `8a + off ..`. -/
def bitRead (w : Width) (a : Addr) (off : Byte) (s : State) : Except Fault (BitVec w.bits) := do
  let g := 8 * a.toNat + off.toNat
  let first := g / 8
  let count := (g + w.bits - 1) / 8 - first + 1
  checkBlock first count
  let bs ← memBytes s.mem first count
  let o := s.params.bitviewOrder
  return BitVec.ofNat w.bits (bitsToNat (fun k => listBit o first bs (g + fieldBit o w.bits k)) w.bits)

/-- The byte at address `q` after `BitWrite`: a bit the field covers is the matching bit of `v`, any other is kept. A byte that
is covered partly and was UNDEF stays UNDEF. -/
def bitWriteByte (o : BitviewOrder) (w : Width) (g : Nat) (v : BitVec w.bits) (q : Nat) (old : Option Byte) : Option Byte :=
  let pos := fun k => 8 * q + bitPlace o k
  let covered := fun k => decide (g ≤ pos k ∧ pos k < g + w.bits)
  match old with
  | none =>
    if (List.range 8).all covered then
      some (BitVec.ofNat 8 (bitsToNat (fun k => v.getLsbD (fieldBit o w.bits (pos k - g))) 8))
    else none
  | some b =>
    some (BitVec.ofNat 8
      (bitsToNat (fun k => if covered k then v.getLsbD (fieldBit o w.bits (pos k - g)) else b.getLsbD k) 8))

/-- `BitWrite` over the bytes at `q, q+1, ...`. -/
def bitWriteBytes (o : BitviewOrder) (w : Width) (g : Nat) (v : BitVec w.bits) :
    List Host.Cell → Nat → Nat → List Host.Cell
  | m, _, 0 => m
  | m, q, n + 1 =>
    match bitWriteByte o w g v q (Store.get m q) with
    | none => bitWriteBytes o w g v m (q + 1) n
    | some b => bitWriteBytes o w g v (Store.put m q b) (q + 1) n

/-- `BitWrite(a, off, W, v)`. -/
def bitWrite (w : Width) (a : Addr) (off : Byte) (v : BitVec w.bits) (s : State) : Except Fault State := do
  let g := 8 * a.toNat + off.toNat
  let first := g / 8
  let count := (g + w.bits - 1) / 8 - first + 1
  checkBlock first count
  return { s with mem := bitWriteBytes s.params.bitviewOrder w g v s.mem first count }

/-! ## Call stack (10_state.md R45 to R47) -/

/-- `PushReturn(SPC, IPO)`: `CS[SPC] <- IPO; SPC <- SPC + 1`, or `CallStackOverflow`. -/
def pushReturn (s : State) : Except Fault State :=
  if s.spc < s.params.callStackDepth then .ok { s with cs := s.cs.set s.spc s.ipo, spc := s.spc + 1 }
  else .error .callStackOverflow

/-- `PopReturn(SPC)` with `SPC > 0`: `SPC <- SPC - 1; IPO <- CS[SPC]`. -/
def State.popReturn (s : State) : State := { s with spc := s.spc - 1, ipo := s.cs.getD (s.spc - 1) 0 }

/-! ## Halt (60_exceptions.md R422) -/

/-- The halt of BREAK and of a return with an empty stack: `RUNNING <- false`, and IPO is a `draw` afterwards
(43_control_compare.md R291, 46_misc_system.md R394). Nothing else changes. -/
def State.halt (s : State) : State := { s.tick with running := false, ipo := s.free }

/-! ## Host boundary -/

/-- Record a host event (00_scope.md R11). -/
def State.record (s : State) (e : HostEvent) : State := { s with events := e :: s.events }

/-- Is the address in `HOST_MEM_FOOTPRINT`? -/
def inFootprint (p : Params) (a : Nat) : Bool := inRanges p.hostMemFootprint a

/-- The host memory footprint of VCL and VDL (46_misc_system.md R392): "the model sets those bytes to UNDEF". -/
def State.dropFootprint (s : State) : State := { s with mem := Store.drop (inFootprint s.params) s.mem }

/-- A host-initiated stop between two steps (40_dispatch.md R173, 70_reset_and_hazards.md R452). -/
def State.hostStop (s : State) : State := { s with running := false }

/-- A machine reset (70_reset_and_hazards.md R450): `HMEM` is kept unless `HMEM_CLEARED_ON_RESET`. -/
def State.machineReset (s : State) : State :=
  State.boot s.params (if s.params.hmemClearedOnReset then [] else s.hmem) s.draws s.events

end Sys2Proof.Machine
end

