-- ==== Sys2Proof/Machine/Flags.lean ====
section
/-! DEFINITION. Every flag computation (10_state.md R41 to R43): the flags an instruction leaves UNDEF, SCP's six flags
(43_control_compare.md R292), BIT's flag (42_shift_bit.md R247), the float range check's flag (44_float.md R323), and the
read of a flag (40_dispatch.md R170). -/

namespace Sys2Proof.Machine

/-- Flag indices by name (10_state.md R41). -/
abbrev flagZero : FlagIx := 0
abbrev flagCarry : FlagIx := 1
abbrev flagSignNegative : FlagIx := 2
abbrev flagOverflow : FlagIx := 3
abbrev flagParityOverflow : FlagIx := 4
abbrev flagEqual : FlagIx := 5
abbrev flagGreaterThan : FlagIx := 6
abbrev flagLessThan : FlagIx := 7

/-- The bit of `FLAG[n]`. It is the flag's value unless `flagBitUndef`. -/
def State.flagBit (s : State) (n : FlagIx) : Bool := s.flag.getLsbD n.toNat

/-- `FLAG[n]` is UNDEF. -/
def State.flagBitUndef (s : State) (n : FlagIx) : Bool := s.flagUndef.getLsbD n.toNat

/-- `Flag(n)`: read `FLAG[n]`; an UNDEF flag faults (40_dispatch.md R170). -/
def readFlag (n : FlagIx) (s : State) : Except Fault Bool :=
  if s.flagBitUndef n then .error .readUndefined else .ok (s.flagBit n)

/-- `v` with bit `n` set to `b`. -/
def putBit (v : Word) (n : FlagIx) (b : Bool) : Word :=
  if b then v ||| ((1 : Word) <<< n.toNat) else v &&& ~~~((1 : Word) <<< n.toNat)

/-- `FLAG[n] <- b`. -/
def State.setFlagBit (s : State) (n : FlagIx) (b : Bool) : State :=
  { s with flag := putBit s.flag n b, flagUndef := putBit s.flagUndef n false }

/-- `FLAG[0..31] <- UNDEF`: every bit becomes UNDEF, the word a free value (10_state.md R42). -/
def State.undefFlags (s : State) : State := { s.tick with flag := s.free, flagUndef := allBits true }

/-- `FLAG[0..31] <- UNDEF; FLAG[n] <- b`. -/
def State.undefFlagsBut (s : State) (n : FlagIx) (b : Bool) : State := s.undefFlags.setFlagBit n b

/-- The float range check: `FLAG[OVF_BIT] <- b`, every other flag UNDEF (44_float.md R323; `SetOverflow`, 10_state.md R43). -/
def State.rangeFlags (s : State) (b : Bool) : State := s.undefFlagsBut s.params.ovfBit.index b

/-- BIT's flags: `FLAG[BIT_FLAG]` reports the tested bit in the sense `BIT_SENSE`, every other flag UNDEF
(42_shift_bit.md R247). -/
def State.bitFlags (s : State) (t : Bool) : State :=
  s.undefFlagsBut s.params.bitFlag (match s.params.bitSense with | .bitValue => t | .zeroTest => !t)

/-- The exact difference of the signed operands is negative. -/
def signedLess (w : Width) (d x : BitVec w.bits) : Bool := decide (d.toInt - x.toInt < 0)

/-- SignNegative is determined: the exact difference and the `W`-bit difference have one sign (R292). -/
def signAgrees (w : Width) (d x : BitVec w.bits) : Bool := signedLess w d x == (d - x).msb

/-- SCP's flags (R292): bits 0, 2, 3, 5, 6, 7 recomputed together, the others kept. SignNegative is UNDEF when the two
differences disagree in sign. -/
def State.compareFlags (s : State) (w : Width) (d x : BitVec w.bits) : State :=
  let a := d.toInt
  let b := x.toInt
  let sn := if signAgrees w d x then signedLess w d x else s.free.getLsbD 0
  { s.tick with
    flag := putBit (putBit (putBit (putBit (putBit (putBit s.flag
      flagZero (decide (a - b = 0))) flagSignNegative sn) flagOverflow false)
      flagEqual (decide (a = b))) flagGreaterThan (decide (a > b))) flagLessThan (decide (a < b))
    flagUndef := putBit (putBit (putBit (putBit (putBit (putBit s.flagUndef
      flagZero false) flagSignNegative (!signAgrees w d x)) flagOverflow false)
      flagEqual false) flagGreaterThan false) flagLessThan false }

end Sys2Proof.Machine
end

