-- ==== Sys2Proof/Machine/FloatNum.lean ====
section
/-! DEFINITION. Binary32 numbers and the numerics configuration (44_float.md R322 to R324, R329, R330; 41_arith_logic.md R207
to R210): every result a law of the spec fixes is computed exactly; every other one is a free value of `Config`.

A finite pattern stands for `± floatMag x / 2^149`: every binary32 value is a whole multiple of `2^-149`. The layout of a
pattern is 44_float.md R321's. -/

namespace Sys2Proof.Machine

/-- `2^149`: what the magnitude 1.0 is counted as. -/
abbrev floatOne : Nat := 2 ^ 149

/-- The exponent field, bits 30:23. -/
def floatExp (x : Word) : Nat := (x.extractLsb' 23 8).toNat

/-- The fraction field, bits 22:0. -/
def floatFrac (x : Word) : Nat := (x.extractLsb' 0 23).toNat

/-- Neither a NaN nor an infinity. -/
def isFinite (x : Word) : Bool := floatExp x != 255

/-- A NaN. -/
def isNaN (x : Word) : Bool := floatExp x == 255 && floatFrac x != 0

/-- The magnitude in units of `2^-149`; an infinity counts as `2^128`, above every finite value. -/
def floatMag (x : Word) : Nat :=
  if floatExp x = 0 then floatFrac x else (2 ^ 23 + floatFrac x) * 2 ^ (floatExp x - 1)

/-- The signed value in units of `2^-149`. -/
def floatInt (x : Word) : Int := if x.msb then -(floatMag x : Int) else floatMag x

/-- The pattern with these fields. -/
def floatPack (neg : Bool) (e f : Nat) : Word := BitVec.ofNat 32 ((if neg then 2 ^ 31 else 0) + e * 2 ^ 23 + f)

/-- A zero with the sign of a pattern. -/
def zeroLike (x : Word) : Word := floatPack x.msb 0 0

/-- The pattern of `± m / 2^149`, if that is a binary32 value. -/
def ofMag (neg : Bool) (m : Nat) : Option Word :=
  if m < 2 ^ 23 then some (floatPack neg 0 m)
  else
    let k := Nat.log2 m - 23
    if m % 2 ^ k = 0 ∧ k < 254 then some (floatPack neg (k + 1) (m / 2 ^ k - 2 ^ 23)) else none

/-! ## Conversions (R322, R323) -/

/-- `cvtU2F(u, W)`: exact below `2^24`, else the configuration's (R322). -/
def cvtU2F (w : Width) (u : BitVec w.bits) : Word :=
  if u.toNat < 2 ^ 24 then (ofMag false (u.toNat * floatOne)).getD 0 else Config.cvtU2F w (u.setWidth 32)

/-- The range check of R323: the truncated value when it fits the unsigned range of the width. -/
def truncToWidth (w : Width) (r : Word) : Option (BitVec w.bits) :=
  let t := floatMag r / floatOne
  if isFinite r ∧ t < 2 ^ w.bits ∧ (r.msb = true → t = 0) then some (BitVec.ofNat w.bits t) else none

/-! ## The operations (R324) -/

/-- The largest `k < 2^bits` above `acc` with `k^p ≤ n`, bit by bit from the top. -/
def natRoot (p n : Nat) : Nat → Nat → Nat
  | 0, acc => acc
  | b + 1, acc => if (acc + 2 ^ b) ^ p ≤ n then natRoot p n b (acc + 2 ^ b) else natRoot p n b acc

/-- The pattern of the exact `p`-th root of a magnitude, if it has one that is a binary32 value. -/
def exactRoot (p : Nat) (neg : Bool) (m : Nat) : Option Word :=
  let n := m * floatOne ^ (p - 1)
  let k := natRoot p n 214 0
  if k ^ p = n then ofMag neg k else none

/-- `fsqrt`: exact where the exact root is a binary32 value. The sign of a zero root is the configuration's. -/
def fsqrt (x : Word) : Word :=
  if floatMag x = 0 then zeroLike (Config.fsqrt x)
  else if isFinite x && !x.msb then (exactRoot 2 false (floatMag x)).getD (Config.fsqrt x)
  else Config.fsqrt x

/-- `fcbrt`: exact where the exact cube root is a binary32 value. The sign of a zero root is the configuration's. -/
def fcbrt (x : Word) : Word :=
  if floatMag x = 0 then zeroLike (Config.fcbrt x)
  else if isFinite x then (exactRoot 3 x.msb (floatMag x)).getD (Config.fcbrt x)
  else Config.fcbrt x

/-- The largest "small integer" of R324's law for `fpow`. DESIGN CHOICE (log 17): `2^24`, up to which every integer is a
binary32 value. -/
abbrev smallBound : Nat := 2 ^ 24

/-- A pattern that is a small integer: its magnitude. -/
def smallInt (x : Word) : Option Nat :=
  if isFinite x ∧ floatMag x % floatOne = 0 ∧ floatMag x / floatOne ≤ smallBound then some (floatMag x / floatOne) else none

/-- `(± a)^(± b)` where it is a small integer, and its magnitude; none for `0^0`, `0^-b` and fractions. -/
def smallPow (a : Nat) (negExponent : Bool) (b : Nat) : Option Nat :=
  if a = 0 then (if b = 0 ∨ negExponent then none else some 0)
  else if b = 0 ∨ a = 1 then some 1
  else if negExponent ∨ 24 < b ∨ smallBound < a ^ b then none
  else some (a ^ b)

/-- `fpow(y, x)`: `y` for `x = 1.0` and finite `y`; exact where `y`, `x` and `y^x` are small integers. The sign of a zero
result is the configuration's. -/
def fpow (y x : Word) : Word :=
  if x = 0x3F800000 ∧ isFinite y then y
  else match smallInt y, smallInt x with
    | some a, some b =>
      match smallPow a x.msb b with
      | some 0 => zeroLike (Config.fpow y x)
      | some n => (ofMag (y.msb && b % 2 == 1) (n * floatOne)).getD (Config.fpow y x)
      | none => Config.fpow y x
    | _, _ => Config.fpow y x

/-- `fsin`: a zero gives itself. -/
def fsin (x : Word) : Word := if floatMag x = 0 then x else Config.fsin x

/-- `floor` (R329): exact; a NaN gives a NaN, an infinity or a zero itself. The floor of a value in (0, 1) is +0.0. -/
def ffloor (x : Word) : Word :=
  if isNaN x then (if isNaN (Config.floorNaN x) then Config.floorNaN x else x)
  else if !isFinite x || floatMag x % floatOne == 0 then x
  else if x.msb then (ofMag true ((floatMag x / floatOne + 1) * floatOne)).getD x
  else (ofMag false (floatMag x / floatOne * floatOne)).getD x

/-- Does the magnitude go up when rounding to the nearest integral value? -/
def roundsUp (x : Word) : Bool :=
  let r := floatMag x % floatOne
  decide (floatOne < 2 * r) || (decide (2 * r = floatOne) && Config.froundTieUp x)

/-- `fround` (R330): the nearest integral value; the choice at a tie and the sign of a zero result are the
configuration's. -/
def fround (x : Word) : Word :=
  if !isFinite x then Config.fround x
  else
    let n := floatMag x / floatOne + (if roundsUp x then 1 else 0)
    if n = 0 then zeroLike (Config.fround x) else (ofMag x.msb (n * floatOne)).getD x

/-- The operand with the smaller (or, with `larger`, the larger) value, by `pick` where that fixes none: a NaN operand, and
the sign of the result for two zeros of different sign. Two equal patterns that are no NaN give themselves (R209). -/
def floatChoose (larger : Bool) (pick : Word → Word → Word) (x y : Word) : Word :=
  if isNaN x || isNaN y then pick x y
  else if x = y then x
  else if floatInt x = floatInt y then zeroLike (pick x y)
  else if decide (floatInt x < floatInt y) == !larger then x
  else y

/-- `fmin` (41_arith_logic.md R209). -/
def fmin (x y : Word) : Word := floatChoose false Config.fmin x y

/-- `fmax` (41_arith_logic.md R210). -/
def fmax (x y : Word) : Word := floatChoose true Config.fmax x y

end Sys2Proof.Machine
end

