-- ==== Sys2Proof/Machine/Operands.lean ====
section
/-! DEFINITION. Operand resolution (30_encoding.md R119, 40_dispatch.md R167 to R169): every operand kind, its effective
address, its read and its write. -/

namespace Sys2Proof.Machine

/-- A memory operand: register-indirect (`x24[X]`) or absolute (`ADDR24`) (R168). -/
inductive MemRef where
  | reg (x : RegIx)
  | abs (a : Addr)
deriving DecidableEq, Repr, Inhabited

/-- The effective address `EA` (R168). -/
def MemRef.address (m : MemRef) (s : State) : Except Fault Addr :=
  match m with
  | .reg x => readReg .w24 x s
  | .abs a => .ok a

/-- An operand that can be a destination: `R(W, X)`, `Mr(W, X)` or `Ma(W)`. -/
inductive Place where
  | reg (x : RegIx)
  | mem (m : MemRef)
deriving DecidableEq, Repr, Inhabited

/-- A `W`-bit operand that is read: a place or an immediate `I(W)`. -/
inductive Source (w : Width) where
  | place (p : Place)
  | imm (v : BitVec w.bits)
deriving DecidableEq, Repr, Inhabited

/-- Read a place at width `W`. -/
def readPlace (w : Width) (p : Place) (s : State) : Except Fault (BitVec w.bits) :=
  match p with
  | .reg x => readReg w x s
  | .mem m => do readMem w (← m.address s) s

/-- Write a place at width `W`: the same register or the same `EA` as a read of it in the same state. -/
def writePlace (w : Width) (p : Place) (v : BitVec w.bits) (s : State) : Except Fault State :=
  match p with
  | .reg x => writeReg w x v s
  | .mem m => do writeMem w (← m.address s) v s

/-- Read a source. -/
def readSource (w : Width) (x : Source w) (s : State) : Except Fault (BitVec w.bits) :=
  match x with
  | .place p => readPlace w p s
  | .imm v => .ok v

/-- An operand of a float form (R169, 44_float.md R321): `Fr(X)`, `R(W, X)`, or `MFr(X)` and `MFa`. -/
inductive FloatPlace where
  | freg (j : FloatIx)
  | ireg (w : Width) (x : RegIx)
  | mem (m : MemRef)
deriving DecidableEq, Repr, Inhabited

end Sys2Proof.Machine
end

