-- ==== Sys2Proof/Machine/ArithLogic.lean ====
section
/-! DEFINITION. Arithmetic and logic: AND, OR, XOR, NOR, MIN, MAX, INC, DEC, INV (41_arith_logic.md). One shared operation for
each instruction name, one meaning for each form. -/

namespace Sys2Proof.Machine

/-- The binary template (R200): both operands are read, then the destination is written, then every flag is UNDEF. -/
def binary (w : Width) (f : BitVec w.bits → BitVec w.bits → BitVec w.bits) (dst : Place) (src : Source w) (s : State) :
    Except Fault State := do
  let d ← readPlace w dst s
  let x ← readSource w src s
  let t ← writePlace w dst (f d x) s
  return t.undefFlags

/-- The read-modify-write of one operand (R211 to R213), every flag UNDEF. -/
def modify (w : Width) (f : BitVec w.bits → BitVec w.bits) (dst : Place) (s : State) : Except Fault State := do
  let d ← readPlace w dst s
  let t ← writePlace w dst (f d) s
  return t.undefFlags

/-- Unsigned minimum (R205). -/
def minUnsigned {n : Nat} (d x : BitVec n) : BitVec n := if d.toNat ≤ x.toNat then d else x

/-- Unsigned maximum (R206). -/
def maxUnsigned {n : Nat} (d x : BitVec n) : BitVec n := if x.toNat ≤ d.toNat then d else x

/-- AND (R201). -/
def andOp (w : Width) (dst : Place) (src : Source w) (s : State) : Out := finish (binary w (fun d x => d &&& x) dst src s)

/-- OR (R202). -/
def orOp (w : Width) (dst : Place) (src : Source w) (s : State) : Out := finish (binary w (fun d x => d ||| x) dst src s)

/-- XOR (R203). -/
def xorOp (w : Width) (dst : Place) (src : Source w) (s : State) : Out := finish (binary w (fun d x => d ^^^ x) dst src s)

/-- NOR (R204). -/
def norOp (w : Width) (dst : Place) (src : Source w) (s : State) : Out := finish (binary w (fun d x => ~~~(d ||| x)) dst src s)

/-- MIN, integer shapes (R205). -/
def minOp (w : Width) (dst : Place) (src : Source w) (s : State) : Out := finish (binary w minUnsigned dst src s)

/-- MAX, integer shapes (R206). -/
def maxOp (w : Width) (dst : Place) (src : Source w) (s : State) : Out := finish (binary w maxUnsigned dst src s)

/-- INC (R211): modulo `2^W`. -/
def incOp (w : Width) (dst : Place) (s : State) : Out := finish (modify w (fun d => d + 1) dst s)

/-- DEC (R212): modulo `2^W`. -/
def decOp (w : Width) (dst : Place) (s : State) : Out := finish (modify w (fun d => d - 1) dst s)

/-- INV (R213). -/
def invOp (w : Width) (a : RegIx) (s : State) : Out := finish (modify w (fun d => ~~~d) (.reg a) s)

/-- What `MIN.W rA, fB` and `MAX.W rA, fB` put in the register for a non-NaN float (R207, R208): the exact result `t`, or for
`D > 2^24` a draw between `t` and `D`. -/
def drawnOr {n : Nat} (s : State) (d t : BitVec n) : BitVec n :=
  if 2 ^ 24 < d.toNat && s.free.getLsbD 0 then d else t

/-- MIN and MAX with a float source (R207, R208): `pick` chooses between the register's value and the float's magnitude, both
counted in units of `2^-149`, and the choice is truncated. A NaN writes UNDEF; a result that does not fit writes nothing. -/
def pickFloat (w : Width) (pick : Nat → Nat → Nat) (a : RegIx) (fb : FloatIx) (s : State) : Except Fault State := do
  let d ← readReg w a s
  let p ← readFloatReg fb s
  let t := pick (d.toNat * floatOne) (floatMag p) / floatOne
  if isNaN p then return (s.setViewFree w a).undefFlags
  else if t < 2 ^ w.bits then return (s.tick.setView w a (drawnOr s d (BitVec.ofNat w.bits t))).undefFlags
  else return s.undefFlags

/-- MIN with a float source (R207). -/
def minFloatOp (w : Width) (a : RegIx) (fb : FloatIx) (s : State) : Out := finish (pickFloat w Nat.min a fb s)

/-- MAX with a float source (R208). -/
def maxFloatOp (w : Width) (a : RegIx) (fb : FloatIx) (s : State) : Out := finish (pickFloat w Nat.max a fb s)

/-- MIN and MAX of two float registers (R209, R210): both are read, then the first is written, every flag UNDEF. -/
def binaryFloat (f : Word → Word → Word) (fa fb : FloatIx) (s : State) : Except Fault State := do
  let x ← readFloatReg fa s
  let y ← readFloatReg fb s
  return (s.setFloat fa (f x y)).undefFlags

/-- MIN of two float registers (R209). -/
def minFFOp (fa fb : FloatIx) (s : State) : Out := finish (binaryFloat fmin fa fb s)

/-- MAX of two float registers (R210). -/
def maxFFOp (fa fb : FloatIx) (s : State) : Out := finish (binaryFloat fmax fa fb s)

/-! ## AND -/

/-- `AND.RR.8` (41_arith_logic.md R201). -/
def execAndRR8 (a b : RegIx) (s : State) : Out := andOp .w8 (.reg a) (.place (.reg b)) s

/-- `AND.RR.16` (41_arith_logic.md R201). -/
def execAndRR16 (a b : RegIx) (s : State) : Out := andOp .w16 (.reg a) (.place (.reg b)) s

/-- `AND.RR.24` (41_arith_logic.md R201). -/
def execAndRR24 (a b : RegIx) (s : State) : Out := andOp .w24 (.reg a) (.place (.reg b)) s

/-- `AND.RR.32` (41_arith_logic.md R201). -/
def execAndRR32 (a b : RegIx) (s : State) : Out := andOp .w32 (.reg a) (.place (.reg b)) s

/-- `AND.RI.8` (41_arith_logic.md R201). -/
def execAndRI8 (a : RegIx) (imm : BitVec 8) (s : State) : Out := andOp .w8 (.reg a) (.imm imm) s

/-- `AND.RI.16` (41_arith_logic.md R201). -/
def execAndRI16 (a : RegIx) (imm : BitVec 16) (s : State) : Out := andOp .w16 (.reg a) (.imm imm) s

/-- `AND.RI.24` (41_arith_logic.md R201). -/
def execAndRI24 (a : RegIx) (imm : BitVec 24) (s : State) : Out := andOp .w24 (.reg a) (.imm imm) s

/-- `AND.RI.32` (41_arith_logic.md R201). -/
def execAndRI32 (a : RegIx) (imm : BitVec 32) (s : State) : Out := andOp .w32 (.reg a) (.imm imm) s

/-- `AND.RMr.8` (41_arith_logic.md R201). -/
def execAndRMr8 (a b : RegIx) (s : State) : Out := andOp .w8 (.reg a) (.place (.mem (.reg b))) s

/-- `AND.RMr.16` (41_arith_logic.md R201). -/
def execAndRMr16 (a b : RegIx) (s : State) : Out := andOp .w16 (.reg a) (.place (.mem (.reg b))) s

/-- `AND.RMr.24` (41_arith_logic.md R201). -/
def execAndRMr24 (a b : RegIx) (s : State) : Out := andOp .w24 (.reg a) (.place (.mem (.reg b))) s

/-- `AND.RMr.32` (41_arith_logic.md R201). -/
def execAndRMr32 (a b : RegIx) (s : State) : Out := andOp .w32 (.reg a) (.place (.mem (.reg b))) s

/-- `AND.RMa.8` (41_arith_logic.md R201). -/
def execAndRMa8 (a : RegIx) (addr : Addr) (s : State) : Out := andOp .w8 (.reg a) (.place (.mem (.abs addr))) s

/-- `AND.RMa.16` (41_arith_logic.md R201). -/
def execAndRMa16 (a : RegIx) (addr : Addr) (s : State) : Out := andOp .w16 (.reg a) (.place (.mem (.abs addr))) s

/-- `AND.RMa.24` (41_arith_logic.md R201). -/
def execAndRMa24 (a : RegIx) (addr : Addr) (s : State) : Out := andOp .w24 (.reg a) (.place (.mem (.abs addr))) s

/-- `AND.RMa.32` (41_arith_logic.md R201). -/
def execAndRMa32 (a : RegIx) (addr : Addr) (s : State) : Out := andOp .w32 (.reg a) (.place (.mem (.abs addr))) s

/-- `AND.MrR.8` (41_arith_logic.md R201). -/
def execAndMrR8 (a b : RegIx) (s : State) : Out := andOp .w8 (.mem (.reg a)) (.place (.reg b)) s

/-- `AND.MrR.16` (41_arith_logic.md R201). -/
def execAndMrR16 (a b : RegIx) (s : State) : Out := andOp .w16 (.mem (.reg a)) (.place (.reg b)) s

/-- `AND.MrR.24` (41_arith_logic.md R201). -/
def execAndMrR24 (a b : RegIx) (s : State) : Out := andOp .w24 (.mem (.reg a)) (.place (.reg b)) s

/-- `AND.MrR.32` (41_arith_logic.md R201). -/
def execAndMrR32 (a b : RegIx) (s : State) : Out := andOp .w32 (.mem (.reg a)) (.place (.reg b)) s

/-- `AND.MaR.8` (41_arith_logic.md R201). -/
def execAndMaR8 (addr : Addr) (a : RegIx) (s : State) : Out := andOp .w8 (.mem (.abs addr)) (.place (.reg a)) s

/-- `AND.MaR.16` (41_arith_logic.md R201). -/
def execAndMaR16 (addr : Addr) (a : RegIx) (s : State) : Out := andOp .w16 (.mem (.abs addr)) (.place (.reg a)) s

/-- `AND.MaR.24` (41_arith_logic.md R201). -/
def execAndMaR24 (addr : Addr) (a : RegIx) (s : State) : Out := andOp .w24 (.mem (.abs addr)) (.place (.reg a)) s

/-- `AND.MaR.32` (41_arith_logic.md R201). -/
def execAndMaR32 (addr : Addr) (a : RegIx) (s : State) : Out := andOp .w32 (.mem (.abs addr)) (.place (.reg a)) s

/-- `AND.MrI.8` (41_arith_logic.md R201). -/
def execAndMrI8 (a : RegIx) (imm : BitVec 8) (s : State) : Out := andOp .w8 (.mem (.reg a)) (.imm imm) s

/-- `AND.MrI.16` (41_arith_logic.md R201). -/
def execAndMrI16 (a : RegIx) (imm : BitVec 16) (s : State) : Out := andOp .w16 (.mem (.reg a)) (.imm imm) s

/-- `AND.MrI.24` (41_arith_logic.md R201). -/
def execAndMrI24 (a : RegIx) (imm : BitVec 24) (s : State) : Out := andOp .w24 (.mem (.reg a)) (.imm imm) s

/-- `AND.MrI.32` (41_arith_logic.md R201). -/
def execAndMrI32 (a : RegIx) (imm : BitVec 32) (s : State) : Out := andOp .w32 (.mem (.reg a)) (.imm imm) s

/-- `AND.MaI.8` (41_arith_logic.md R201). -/
def execAndMaI8 (addr : Addr) (imm : BitVec 8) (s : State) : Out := andOp .w8 (.mem (.abs addr)) (.imm imm) s

/-- `AND.MaI.16` (41_arith_logic.md R201). -/
def execAndMaI16 (addr : Addr) (imm : BitVec 16) (s : State) : Out := andOp .w16 (.mem (.abs addr)) (.imm imm) s

/-- `AND.MaI.24` (41_arith_logic.md R201). -/
def execAndMaI24 (addr : Addr) (imm : BitVec 24) (s : State) : Out := andOp .w24 (.mem (.abs addr)) (.imm imm) s

/-- `AND.MaI.32` (41_arith_logic.md R201). -/
def execAndMaI32 (addr : Addr) (imm : BitVec 32) (s : State) : Out := andOp .w32 (.mem (.abs addr)) (.imm imm) s

/-! ## OR -/

/-- `OR.RR.8` (41_arith_logic.md R202). -/
def execOrRR8 (a b : RegIx) (s : State) : Out := orOp .w8 (.reg a) (.place (.reg b)) s

/-- `OR.RR.16` (41_arith_logic.md R202). -/
def execOrRR16 (a b : RegIx) (s : State) : Out := orOp .w16 (.reg a) (.place (.reg b)) s

/-- `OR.RR.24` (41_arith_logic.md R202). -/
def execOrRR24 (a b : RegIx) (s : State) : Out := orOp .w24 (.reg a) (.place (.reg b)) s

/-- `OR.RR.32` (41_arith_logic.md R202). -/
def execOrRR32 (a b : RegIx) (s : State) : Out := orOp .w32 (.reg a) (.place (.reg b)) s

/-- `OR.RI.8` (41_arith_logic.md R202). -/
def execOrRI8 (a : RegIx) (imm : BitVec 8) (s : State) : Out := orOp .w8 (.reg a) (.imm imm) s

/-- `OR.RI.16` (41_arith_logic.md R202). -/
def execOrRI16 (a : RegIx) (imm : BitVec 16) (s : State) : Out := orOp .w16 (.reg a) (.imm imm) s

/-- `OR.RI.24` (41_arith_logic.md R202). -/
def execOrRI24 (a : RegIx) (imm : BitVec 24) (s : State) : Out := orOp .w24 (.reg a) (.imm imm) s

/-- `OR.RI.32` (41_arith_logic.md R202). -/
def execOrRI32 (a : RegIx) (imm : BitVec 32) (s : State) : Out := orOp .w32 (.reg a) (.imm imm) s

/-- `OR.RMr.8` (41_arith_logic.md R202). -/
def execOrRMr8 (a b : RegIx) (s : State) : Out := orOp .w8 (.reg a) (.place (.mem (.reg b))) s

/-- `OR.RMr.16` (41_arith_logic.md R202). -/
def execOrRMr16 (a b : RegIx) (s : State) : Out := orOp .w16 (.reg a) (.place (.mem (.reg b))) s

/-- `OR.RMr.24` (41_arith_logic.md R202). -/
def execOrRMr24 (a b : RegIx) (s : State) : Out := orOp .w24 (.reg a) (.place (.mem (.reg b))) s

/-- `OR.RMr.32` (41_arith_logic.md R202). -/
def execOrRMr32 (a b : RegIx) (s : State) : Out := orOp .w32 (.reg a) (.place (.mem (.reg b))) s

/-- `OR.RMa.8` (41_arith_logic.md R202). -/
def execOrRMa8 (a : RegIx) (addr : Addr) (s : State) : Out := orOp .w8 (.reg a) (.place (.mem (.abs addr))) s

/-- `OR.RMa.16` (41_arith_logic.md R202). -/
def execOrRMa16 (a : RegIx) (addr : Addr) (s : State) : Out := orOp .w16 (.reg a) (.place (.mem (.abs addr))) s

/-- `OR.RMa.24` (41_arith_logic.md R202). -/
def execOrRMa24 (a : RegIx) (addr : Addr) (s : State) : Out := orOp .w24 (.reg a) (.place (.mem (.abs addr))) s

/-- `OR.RMa.32` (41_arith_logic.md R202). -/
def execOrRMa32 (a : RegIx) (addr : Addr) (s : State) : Out := orOp .w32 (.reg a) (.place (.mem (.abs addr))) s

/-- `OR.MrR.8` (41_arith_logic.md R202). -/
def execOrMrR8 (a b : RegIx) (s : State) : Out := orOp .w8 (.mem (.reg a)) (.place (.reg b)) s

/-- `OR.MrR.16` (41_arith_logic.md R202). -/
def execOrMrR16 (a b : RegIx) (s : State) : Out := orOp .w16 (.mem (.reg a)) (.place (.reg b)) s

/-- `OR.MrR.24` (41_arith_logic.md R202). -/
def execOrMrR24 (a b : RegIx) (s : State) : Out := orOp .w24 (.mem (.reg a)) (.place (.reg b)) s

/-- `OR.MrR.32` (41_arith_logic.md R202). -/
def execOrMrR32 (a b : RegIx) (s : State) : Out := orOp .w32 (.mem (.reg a)) (.place (.reg b)) s

/-- `OR.MaR.8` (41_arith_logic.md R202). -/
def execOrMaR8 (addr : Addr) (a : RegIx) (s : State) : Out := orOp .w8 (.mem (.abs addr)) (.place (.reg a)) s

/-- `OR.MaR.16` (41_arith_logic.md R202). -/
def execOrMaR16 (addr : Addr) (a : RegIx) (s : State) : Out := orOp .w16 (.mem (.abs addr)) (.place (.reg a)) s

/-- `OR.MaR.24` (41_arith_logic.md R202). -/
def execOrMaR24 (addr : Addr) (a : RegIx) (s : State) : Out := orOp .w24 (.mem (.abs addr)) (.place (.reg a)) s

/-- `OR.MaR.32` (41_arith_logic.md R202). -/
def execOrMaR32 (addr : Addr) (a : RegIx) (s : State) : Out := orOp .w32 (.mem (.abs addr)) (.place (.reg a)) s

/-- `OR.MrI.8` (41_arith_logic.md R202). -/
def execOrMrI8 (a : RegIx) (imm : BitVec 8) (s : State) : Out := orOp .w8 (.mem (.reg a)) (.imm imm) s

/-- `OR.MrI.16` (41_arith_logic.md R202). -/
def execOrMrI16 (a : RegIx) (imm : BitVec 16) (s : State) : Out := orOp .w16 (.mem (.reg a)) (.imm imm) s

/-- `OR.MrI.24` (41_arith_logic.md R202). -/
def execOrMrI24 (a : RegIx) (imm : BitVec 24) (s : State) : Out := orOp .w24 (.mem (.reg a)) (.imm imm) s

/-- `OR.MrI.32` (41_arith_logic.md R202). -/
def execOrMrI32 (a : RegIx) (imm : BitVec 32) (s : State) : Out := orOp .w32 (.mem (.reg a)) (.imm imm) s

/-- `OR.MaI.8` (41_arith_logic.md R202). -/
def execOrMaI8 (addr : Addr) (imm : BitVec 8) (s : State) : Out := orOp .w8 (.mem (.abs addr)) (.imm imm) s

/-- `OR.MaI.16` (41_arith_logic.md R202). -/
def execOrMaI16 (addr : Addr) (imm : BitVec 16) (s : State) : Out := orOp .w16 (.mem (.abs addr)) (.imm imm) s

/-- `OR.MaI.24` (41_arith_logic.md R202). -/
def execOrMaI24 (addr : Addr) (imm : BitVec 24) (s : State) : Out := orOp .w24 (.mem (.abs addr)) (.imm imm) s

/-- `OR.MaI.32` (41_arith_logic.md R202). -/
def execOrMaI32 (addr : Addr) (imm : BitVec 32) (s : State) : Out := orOp .w32 (.mem (.abs addr)) (.imm imm) s

/-! ## XOR -/

/-- `XOR.RR.8` (41_arith_logic.md R203). -/
def execXorRR8 (a b : RegIx) (s : State) : Out := xorOp .w8 (.reg a) (.place (.reg b)) s

/-- `XOR.RR.16` (41_arith_logic.md R203). -/
def execXorRR16 (a b : RegIx) (s : State) : Out := xorOp .w16 (.reg a) (.place (.reg b)) s

/-- `XOR.RR.24` (41_arith_logic.md R203). -/
def execXorRR24 (a b : RegIx) (s : State) : Out := xorOp .w24 (.reg a) (.place (.reg b)) s

/-- `XOR.RR.32` (41_arith_logic.md R203). -/
def execXorRR32 (a b : RegIx) (s : State) : Out := xorOp .w32 (.reg a) (.place (.reg b)) s

/-- `XOR.RI.8` (41_arith_logic.md R203). -/
def execXorRI8 (a : RegIx) (imm : BitVec 8) (s : State) : Out := xorOp .w8 (.reg a) (.imm imm) s

/-- `XOR.RI.16` (41_arith_logic.md R203). -/
def execXorRI16 (a : RegIx) (imm : BitVec 16) (s : State) : Out := xorOp .w16 (.reg a) (.imm imm) s

/-- `XOR.RI.24` (41_arith_logic.md R203). -/
def execXorRI24 (a : RegIx) (imm : BitVec 24) (s : State) : Out := xorOp .w24 (.reg a) (.imm imm) s

/-- `XOR.RI.32` (41_arith_logic.md R203). -/
def execXorRI32 (a : RegIx) (imm : BitVec 32) (s : State) : Out := xorOp .w32 (.reg a) (.imm imm) s

/-- `XOR.RMr.8` (41_arith_logic.md R203). -/
def execXorRMr8 (a b : RegIx) (s : State) : Out := xorOp .w8 (.reg a) (.place (.mem (.reg b))) s

/-- `XOR.RMr.16` (41_arith_logic.md R203). -/
def execXorRMr16 (a b : RegIx) (s : State) : Out := xorOp .w16 (.reg a) (.place (.mem (.reg b))) s

/-- `XOR.RMr.24` (41_arith_logic.md R203). -/
def execXorRMr24 (a b : RegIx) (s : State) : Out := xorOp .w24 (.reg a) (.place (.mem (.reg b))) s

/-- `XOR.RMr.32` (41_arith_logic.md R203). -/
def execXorRMr32 (a b : RegIx) (s : State) : Out := xorOp .w32 (.reg a) (.place (.mem (.reg b))) s

/-- `XOR.RMa.8` (41_arith_logic.md R203). -/
def execXorRMa8 (a : RegIx) (addr : Addr) (s : State) : Out := xorOp .w8 (.reg a) (.place (.mem (.abs addr))) s

/-- `XOR.RMa.16` (41_arith_logic.md R203). -/
def execXorRMa16 (a : RegIx) (addr : Addr) (s : State) : Out := xorOp .w16 (.reg a) (.place (.mem (.abs addr))) s

/-- `XOR.RMa.24` (41_arith_logic.md R203). -/
def execXorRMa24 (a : RegIx) (addr : Addr) (s : State) : Out := xorOp .w24 (.reg a) (.place (.mem (.abs addr))) s

/-- `XOR.RMa.32` (41_arith_logic.md R203). -/
def execXorRMa32 (a : RegIx) (addr : Addr) (s : State) : Out := xorOp .w32 (.reg a) (.place (.mem (.abs addr))) s

/-- `XOR.MrR.8` (41_arith_logic.md R203). -/
def execXorMrR8 (a b : RegIx) (s : State) : Out := xorOp .w8 (.mem (.reg a)) (.place (.reg b)) s

/-- `XOR.MrR.16` (41_arith_logic.md R203). -/
def execXorMrR16 (a b : RegIx) (s : State) : Out := xorOp .w16 (.mem (.reg a)) (.place (.reg b)) s

/-- `XOR.MrR.24` (41_arith_logic.md R203). -/
def execXorMrR24 (a b : RegIx) (s : State) : Out := xorOp .w24 (.mem (.reg a)) (.place (.reg b)) s

/-- `XOR.MrR.32` (41_arith_logic.md R203). -/
def execXorMrR32 (a b : RegIx) (s : State) : Out := xorOp .w32 (.mem (.reg a)) (.place (.reg b)) s

/-- `XOR.MaR.8` (41_arith_logic.md R203). -/
def execXorMaR8 (addr : Addr) (a : RegIx) (s : State) : Out := xorOp .w8 (.mem (.abs addr)) (.place (.reg a)) s

/-- `XOR.MaR.16` (41_arith_logic.md R203). -/
def execXorMaR16 (addr : Addr) (a : RegIx) (s : State) : Out := xorOp .w16 (.mem (.abs addr)) (.place (.reg a)) s

/-- `XOR.MaR.24` (41_arith_logic.md R203). -/
def execXorMaR24 (addr : Addr) (a : RegIx) (s : State) : Out := xorOp .w24 (.mem (.abs addr)) (.place (.reg a)) s

/-- `XOR.MaR.32` (41_arith_logic.md R203). -/
def execXorMaR32 (addr : Addr) (a : RegIx) (s : State) : Out := xorOp .w32 (.mem (.abs addr)) (.place (.reg a)) s

/-- `XOR.MrI.8` (41_arith_logic.md R203). -/
def execXorMrI8 (a : RegIx) (imm : BitVec 8) (s : State) : Out := xorOp .w8 (.mem (.reg a)) (.imm imm) s

/-- `XOR.MrI.16` (41_arith_logic.md R203). -/
def execXorMrI16 (a : RegIx) (imm : BitVec 16) (s : State) : Out := xorOp .w16 (.mem (.reg a)) (.imm imm) s

/-- `XOR.MrI.24` (41_arith_logic.md R203). -/
def execXorMrI24 (a : RegIx) (imm : BitVec 24) (s : State) : Out := xorOp .w24 (.mem (.reg a)) (.imm imm) s

/-- `XOR.MrI.32` (41_arith_logic.md R203). -/
def execXorMrI32 (a : RegIx) (imm : BitVec 32) (s : State) : Out := xorOp .w32 (.mem (.reg a)) (.imm imm) s

/-- `XOR.MaI.8` (41_arith_logic.md R203). -/
def execXorMaI8 (addr : Addr) (imm : BitVec 8) (s : State) : Out := xorOp .w8 (.mem (.abs addr)) (.imm imm) s

/-- `XOR.MaI.16` (41_arith_logic.md R203). -/
def execXorMaI16 (addr : Addr) (imm : BitVec 16) (s : State) : Out := xorOp .w16 (.mem (.abs addr)) (.imm imm) s

/-- `XOR.MaI.24` (41_arith_logic.md R203). -/
def execXorMaI24 (addr : Addr) (imm : BitVec 24) (s : State) : Out := xorOp .w24 (.mem (.abs addr)) (.imm imm) s

/-- `XOR.MaI.32` (41_arith_logic.md R203). -/
def execXorMaI32 (addr : Addr) (imm : BitVec 32) (s : State) : Out := xorOp .w32 (.mem (.abs addr)) (.imm imm) s

/-! ## NOR -/

/-- `NOR.RR.8` (41_arith_logic.md R204). -/
def execNorRR8 (a b : RegIx) (s : State) : Out := norOp .w8 (.reg a) (.place (.reg b)) s

/-- `NOR.RR.16` (41_arith_logic.md R204). -/
def execNorRR16 (a b : RegIx) (s : State) : Out := norOp .w16 (.reg a) (.place (.reg b)) s

/-- `NOR.RR.24` (41_arith_logic.md R204). -/
def execNorRR24 (a b : RegIx) (s : State) : Out := norOp .w24 (.reg a) (.place (.reg b)) s

/-- `NOR.RR.32` (41_arith_logic.md R204). -/
def execNorRR32 (a b : RegIx) (s : State) : Out := norOp .w32 (.reg a) (.place (.reg b)) s

/-- `NOR.RI.8` (41_arith_logic.md R204). -/
def execNorRI8 (a : RegIx) (imm : BitVec 8) (s : State) : Out := norOp .w8 (.reg a) (.imm imm) s

/-- `NOR.RI.16` (41_arith_logic.md R204). -/
def execNorRI16 (a : RegIx) (imm : BitVec 16) (s : State) : Out := norOp .w16 (.reg a) (.imm imm) s

/-- `NOR.RI.24` (41_arith_logic.md R204). -/
def execNorRI24 (a : RegIx) (imm : BitVec 24) (s : State) : Out := norOp .w24 (.reg a) (.imm imm) s

/-- `NOR.RI.32` (41_arith_logic.md R204). -/
def execNorRI32 (a : RegIx) (imm : BitVec 32) (s : State) : Out := norOp .w32 (.reg a) (.imm imm) s

/-- `NOR.RMr.8` (41_arith_logic.md R204). -/
def execNorRMr8 (a b : RegIx) (s : State) : Out := norOp .w8 (.reg a) (.place (.mem (.reg b))) s

/-- `NOR.RMr.16` (41_arith_logic.md R204). -/
def execNorRMr16 (a b : RegIx) (s : State) : Out := norOp .w16 (.reg a) (.place (.mem (.reg b))) s

/-- `NOR.RMr.24` (41_arith_logic.md R204). -/
def execNorRMr24 (a b : RegIx) (s : State) : Out := norOp .w24 (.reg a) (.place (.mem (.reg b))) s

/-- `NOR.RMr.32` (41_arith_logic.md R204). -/
def execNorRMr32 (a b : RegIx) (s : State) : Out := norOp .w32 (.reg a) (.place (.mem (.reg b))) s

/-- `NOR.RMa.8` (41_arith_logic.md R204). -/
def execNorRMa8 (a : RegIx) (addr : Addr) (s : State) : Out := norOp .w8 (.reg a) (.place (.mem (.abs addr))) s

/-- `NOR.RMa.16` (41_arith_logic.md R204). -/
def execNorRMa16 (a : RegIx) (addr : Addr) (s : State) : Out := norOp .w16 (.reg a) (.place (.mem (.abs addr))) s

/-- `NOR.RMa.24` (41_arith_logic.md R204). -/
def execNorRMa24 (a : RegIx) (addr : Addr) (s : State) : Out := norOp .w24 (.reg a) (.place (.mem (.abs addr))) s

/-- `NOR.RMa.32` (41_arith_logic.md R204). -/
def execNorRMa32 (a : RegIx) (addr : Addr) (s : State) : Out := norOp .w32 (.reg a) (.place (.mem (.abs addr))) s

/-- `NOR.MrR.8` (41_arith_logic.md R204). -/
def execNorMrR8 (a b : RegIx) (s : State) : Out := norOp .w8 (.mem (.reg a)) (.place (.reg b)) s

/-- `NOR.MrR.16` (41_arith_logic.md R204). -/
def execNorMrR16 (a b : RegIx) (s : State) : Out := norOp .w16 (.mem (.reg a)) (.place (.reg b)) s

/-- `NOR.MrR.24` (41_arith_logic.md R204). -/
def execNorMrR24 (a b : RegIx) (s : State) : Out := norOp .w24 (.mem (.reg a)) (.place (.reg b)) s

/-- `NOR.MrR.32` (41_arith_logic.md R204). -/
def execNorMrR32 (a b : RegIx) (s : State) : Out := norOp .w32 (.mem (.reg a)) (.place (.reg b)) s

/-- `NOR.MaR.8` (41_arith_logic.md R204). -/
def execNorMaR8 (addr : Addr) (a : RegIx) (s : State) : Out := norOp .w8 (.mem (.abs addr)) (.place (.reg a)) s

/-- `NOR.MaR.16` (41_arith_logic.md R204). -/
def execNorMaR16 (addr : Addr) (a : RegIx) (s : State) : Out := norOp .w16 (.mem (.abs addr)) (.place (.reg a)) s

/-- `NOR.MaR.24` (41_arith_logic.md R204). -/
def execNorMaR24 (addr : Addr) (a : RegIx) (s : State) : Out := norOp .w24 (.mem (.abs addr)) (.place (.reg a)) s

/-- `NOR.MaR.32` (41_arith_logic.md R204). -/
def execNorMaR32 (addr : Addr) (a : RegIx) (s : State) : Out := norOp .w32 (.mem (.abs addr)) (.place (.reg a)) s

/-- `NOR.MrI.8` (41_arith_logic.md R204). -/
def execNorMrI8 (a : RegIx) (imm : BitVec 8) (s : State) : Out := norOp .w8 (.mem (.reg a)) (.imm imm) s

/-- `NOR.MrI.16` (41_arith_logic.md R204). -/
def execNorMrI16 (a : RegIx) (imm : BitVec 16) (s : State) : Out := norOp .w16 (.mem (.reg a)) (.imm imm) s

/-- `NOR.MrI.24` (41_arith_logic.md R204). -/
def execNorMrI24 (a : RegIx) (imm : BitVec 24) (s : State) : Out := norOp .w24 (.mem (.reg a)) (.imm imm) s

/-- `NOR.MrI.32` (41_arith_logic.md R204). -/
def execNorMrI32 (a : RegIx) (imm : BitVec 32) (s : State) : Out := norOp .w32 (.mem (.reg a)) (.imm imm) s

/-- `NOR.MaI.8` (41_arith_logic.md R204). -/
def execNorMaI8 (addr : Addr) (imm : BitVec 8) (s : State) : Out := norOp .w8 (.mem (.abs addr)) (.imm imm) s

/-- `NOR.MaI.16` (41_arith_logic.md R204). -/
def execNorMaI16 (addr : Addr) (imm : BitVec 16) (s : State) : Out := norOp .w16 (.mem (.abs addr)) (.imm imm) s

/-- `NOR.MaI.24` (41_arith_logic.md R204). -/
def execNorMaI24 (addr : Addr) (imm : BitVec 24) (s : State) : Out := norOp .w24 (.mem (.abs addr)) (.imm imm) s

/-- `NOR.MaI.32` (41_arith_logic.md R204). -/
def execNorMaI32 (addr : Addr) (imm : BitVec 32) (s : State) : Out := norOp .w32 (.mem (.abs addr)) (.imm imm) s

/-! ## MIN -/

/-- `MIN.RR.8` (41_arith_logic.md R205). -/
def execMinRR8 (a b : RegIx) (s : State) : Out := minOp .w8 (.reg a) (.place (.reg b)) s

/-- `MIN.RR.16` (41_arith_logic.md R205). -/
def execMinRR16 (a b : RegIx) (s : State) : Out := minOp .w16 (.reg a) (.place (.reg b)) s

/-- `MIN.RR.24` (41_arith_logic.md R205). -/
def execMinRR24 (a b : RegIx) (s : State) : Out := minOp .w24 (.reg a) (.place (.reg b)) s

/-- `MIN.RR.32` (41_arith_logic.md R205). -/
def execMinRR32 (a b : RegIx) (s : State) : Out := minOp .w32 (.reg a) (.place (.reg b)) s

/-- `MIN.RI.8` (41_arith_logic.md R205). -/
def execMinRI8 (a : RegIx) (imm : BitVec 8) (s : State) : Out := minOp .w8 (.reg a) (.imm imm) s

/-- `MIN.RI.16` (41_arith_logic.md R205). -/
def execMinRI16 (a : RegIx) (imm : BitVec 16) (s : State) : Out := minOp .w16 (.reg a) (.imm imm) s

/-- `MIN.RI.24` (41_arith_logic.md R205). -/
def execMinRI24 (a : RegIx) (imm : BitVec 24) (s : State) : Out := minOp .w24 (.reg a) (.imm imm) s

/-- `MIN.RI.32` (41_arith_logic.md R205). -/
def execMinRI32 (a : RegIx) (imm : BitVec 32) (s : State) : Out := minOp .w32 (.reg a) (.imm imm) s

/-- `MIN.RMr.8` (41_arith_logic.md R205). -/
def execMinRMr8 (a b : RegIx) (s : State) : Out := minOp .w8 (.reg a) (.place (.mem (.reg b))) s

/-- `MIN.RMr.16` (41_arith_logic.md R205). -/
def execMinRMr16 (a b : RegIx) (s : State) : Out := minOp .w16 (.reg a) (.place (.mem (.reg b))) s

/-- `MIN.RMr.24` (41_arith_logic.md R205). -/
def execMinRMr24 (a b : RegIx) (s : State) : Out := minOp .w24 (.reg a) (.place (.mem (.reg b))) s

/-- `MIN.RMr.32` (41_arith_logic.md R205). -/
def execMinRMr32 (a b : RegIx) (s : State) : Out := minOp .w32 (.reg a) (.place (.mem (.reg b))) s

/-- `MIN.RMa.8` (41_arith_logic.md R205). -/
def execMinRMa8 (a : RegIx) (addr : Addr) (s : State) : Out := minOp .w8 (.reg a) (.place (.mem (.abs addr))) s

/-- `MIN.RMa.16` (41_arith_logic.md R205). -/
def execMinRMa16 (a : RegIx) (addr : Addr) (s : State) : Out := minOp .w16 (.reg a) (.place (.mem (.abs addr))) s

/-- `MIN.RMa.24` (41_arith_logic.md R205). -/
def execMinRMa24 (a : RegIx) (addr : Addr) (s : State) : Out := minOp .w24 (.reg a) (.place (.mem (.abs addr))) s

/-- `MIN.RMa.32` (41_arith_logic.md R205). -/
def execMinRMa32 (a : RegIx) (addr : Addr) (s : State) : Out := minOp .w32 (.reg a) (.place (.mem (.abs addr))) s

/-- `MIN.MrR.8` (41_arith_logic.md R205). -/
def execMinMrR8 (a b : RegIx) (s : State) : Out := minOp .w8 (.mem (.reg a)) (.place (.reg b)) s

/-- `MIN.MrR.16` (41_arith_logic.md R205). -/
def execMinMrR16 (a b : RegIx) (s : State) : Out := minOp .w16 (.mem (.reg a)) (.place (.reg b)) s

/-- `MIN.MrR.24` (41_arith_logic.md R205). -/
def execMinMrR24 (a b : RegIx) (s : State) : Out := minOp .w24 (.mem (.reg a)) (.place (.reg b)) s

/-- `MIN.MrR.32` (41_arith_logic.md R205). -/
def execMinMrR32 (a b : RegIx) (s : State) : Out := minOp .w32 (.mem (.reg a)) (.place (.reg b)) s

/-- `MIN.MaR.8` (41_arith_logic.md R205). -/
def execMinMaR8 (addr : Addr) (a : RegIx) (s : State) : Out := minOp .w8 (.mem (.abs addr)) (.place (.reg a)) s

/-- `MIN.MaR.16` (41_arith_logic.md R205). -/
def execMinMaR16 (addr : Addr) (a : RegIx) (s : State) : Out := minOp .w16 (.mem (.abs addr)) (.place (.reg a)) s

/-- `MIN.MaR.24` (41_arith_logic.md R205). -/
def execMinMaR24 (addr : Addr) (a : RegIx) (s : State) : Out := minOp .w24 (.mem (.abs addr)) (.place (.reg a)) s

/-- `MIN.MaR.32` (41_arith_logic.md R205). -/
def execMinMaR32 (addr : Addr) (a : RegIx) (s : State) : Out := minOp .w32 (.mem (.abs addr)) (.place (.reg a)) s

/-- `MIN.MrI.8` (41_arith_logic.md R205). -/
def execMinMrI8 (a : RegIx) (imm : BitVec 8) (s : State) : Out := minOp .w8 (.mem (.reg a)) (.imm imm) s

/-- `MIN.MrI.16` (41_arith_logic.md R205). -/
def execMinMrI16 (a : RegIx) (imm : BitVec 16) (s : State) : Out := minOp .w16 (.mem (.reg a)) (.imm imm) s

/-- `MIN.MrI.24` (41_arith_logic.md R205). -/
def execMinMrI24 (a : RegIx) (imm : BitVec 24) (s : State) : Out := minOp .w24 (.mem (.reg a)) (.imm imm) s

/-- `MIN.MrI.32` (41_arith_logic.md R205). -/
def execMinMrI32 (a : RegIx) (imm : BitVec 32) (s : State) : Out := minOp .w32 (.mem (.reg a)) (.imm imm) s

/-- `MIN.MaI.8` (41_arith_logic.md R205). -/
def execMinMaI8 (addr : Addr) (imm : BitVec 8) (s : State) : Out := minOp .w8 (.mem (.abs addr)) (.imm imm) s

/-- `MIN.MaI.16` (41_arith_logic.md R205). -/
def execMinMaI16 (addr : Addr) (imm : BitVec 16) (s : State) : Out := minOp .w16 (.mem (.abs addr)) (.imm imm) s

/-- `MIN.MaI.24` (41_arith_logic.md R205). -/
def execMinMaI24 (addr : Addr) (imm : BitVec 24) (s : State) : Out := minOp .w24 (.mem (.abs addr)) (.imm imm) s

/-- `MIN.MaI.32` (41_arith_logic.md R205). -/
def execMinMaI32 (addr : Addr) (imm : BitVec 32) (s : State) : Out := minOp .w32 (.mem (.abs addr)) (.imm imm) s

/-- `MIN.RF.8` (41_arith_logic.md R207). -/
def execMinRF8 (a : RegIx) (fb : FloatIx) (s : State) : Out := minFloatOp .w8 a fb s

/-- `MIN.RF.16` (41_arith_logic.md R207). -/
def execMinRF16 (a : RegIx) (fb : FloatIx) (s : State) : Out := minFloatOp .w16 a fb s

/-- `MIN.RF.24` (41_arith_logic.md R207). -/
def execMinRF24 (a : RegIx) (fb : FloatIx) (s : State) : Out := minFloatOp .w24 a fb s

/-- `MIN.RF.32` (41_arith_logic.md R207). -/
def execMinRF32 (a : RegIx) (fb : FloatIx) (s : State) : Out := minFloatOp .w32 a fb s

/-- `MIN.FF` (41_arith_logic.md R209). -/
def execMinFF (fa fb : FloatIx) (s : State) : Out := minFFOp fa fb s

/-! ## MAX -/

/-- `MAX.RR.8` (41_arith_logic.md R206). -/
def execMaxRR8 (a b : RegIx) (s : State) : Out := maxOp .w8 (.reg a) (.place (.reg b)) s

/-- `MAX.RR.16` (41_arith_logic.md R206). -/
def execMaxRR16 (a b : RegIx) (s : State) : Out := maxOp .w16 (.reg a) (.place (.reg b)) s

/-- `MAX.RR.24` (41_arith_logic.md R206). -/
def execMaxRR24 (a b : RegIx) (s : State) : Out := maxOp .w24 (.reg a) (.place (.reg b)) s

/-- `MAX.RR.32` (41_arith_logic.md R206). -/
def execMaxRR32 (a b : RegIx) (s : State) : Out := maxOp .w32 (.reg a) (.place (.reg b)) s

/-- `MAX.RI.8` (41_arith_logic.md R206). -/
def execMaxRI8 (a : RegIx) (imm : BitVec 8) (s : State) : Out := maxOp .w8 (.reg a) (.imm imm) s

/-- `MAX.RI.16` (41_arith_logic.md R206). -/
def execMaxRI16 (a : RegIx) (imm : BitVec 16) (s : State) : Out := maxOp .w16 (.reg a) (.imm imm) s

/-- `MAX.RI.24` (41_arith_logic.md R206). -/
def execMaxRI24 (a : RegIx) (imm : BitVec 24) (s : State) : Out := maxOp .w24 (.reg a) (.imm imm) s

/-- `MAX.RI.32` (41_arith_logic.md R206). -/
def execMaxRI32 (a : RegIx) (imm : BitVec 32) (s : State) : Out := maxOp .w32 (.reg a) (.imm imm) s

/-- `MAX.RMr.8` (41_arith_logic.md R206). -/
def execMaxRMr8 (a b : RegIx) (s : State) : Out := maxOp .w8 (.reg a) (.place (.mem (.reg b))) s

/-- `MAX.RMr.16` (41_arith_logic.md R206). -/
def execMaxRMr16 (a b : RegIx) (s : State) : Out := maxOp .w16 (.reg a) (.place (.mem (.reg b))) s

/-- `MAX.RMr.24` (41_arith_logic.md R206). -/
def execMaxRMr24 (a b : RegIx) (s : State) : Out := maxOp .w24 (.reg a) (.place (.mem (.reg b))) s

/-- `MAX.RMr.32` (41_arith_logic.md R206). -/
def execMaxRMr32 (a b : RegIx) (s : State) : Out := maxOp .w32 (.reg a) (.place (.mem (.reg b))) s

/-- `MAX.RMa.8` (41_arith_logic.md R206). -/
def execMaxRMa8 (a : RegIx) (addr : Addr) (s : State) : Out := maxOp .w8 (.reg a) (.place (.mem (.abs addr))) s

/-- `MAX.RMa.16` (41_arith_logic.md R206). -/
def execMaxRMa16 (a : RegIx) (addr : Addr) (s : State) : Out := maxOp .w16 (.reg a) (.place (.mem (.abs addr))) s

/-- `MAX.RMa.24` (41_arith_logic.md R206). -/
def execMaxRMa24 (a : RegIx) (addr : Addr) (s : State) : Out := maxOp .w24 (.reg a) (.place (.mem (.abs addr))) s

/-- `MAX.RMa.32` (41_arith_logic.md R206). -/
def execMaxRMa32 (a : RegIx) (addr : Addr) (s : State) : Out := maxOp .w32 (.reg a) (.place (.mem (.abs addr))) s

/-- `MAX.MrR.8` (41_arith_logic.md R206). -/
def execMaxMrR8 (a b : RegIx) (s : State) : Out := maxOp .w8 (.mem (.reg a)) (.place (.reg b)) s

/-- `MAX.MrR.16` (41_arith_logic.md R206). -/
def execMaxMrR16 (a b : RegIx) (s : State) : Out := maxOp .w16 (.mem (.reg a)) (.place (.reg b)) s

/-- `MAX.MrR.24` (41_arith_logic.md R206). -/
def execMaxMrR24 (a b : RegIx) (s : State) : Out := maxOp .w24 (.mem (.reg a)) (.place (.reg b)) s

/-- `MAX.MrR.32` (41_arith_logic.md R206). -/
def execMaxMrR32 (a b : RegIx) (s : State) : Out := maxOp .w32 (.mem (.reg a)) (.place (.reg b)) s

/-- `MAX.MaR.8` (41_arith_logic.md R206). -/
def execMaxMaR8 (addr : Addr) (a : RegIx) (s : State) : Out := maxOp .w8 (.mem (.abs addr)) (.place (.reg a)) s

/-- `MAX.MaR.16` (41_arith_logic.md R206). -/
def execMaxMaR16 (addr : Addr) (a : RegIx) (s : State) : Out := maxOp .w16 (.mem (.abs addr)) (.place (.reg a)) s

/-- `MAX.MaR.24` (41_arith_logic.md R206). -/
def execMaxMaR24 (addr : Addr) (a : RegIx) (s : State) : Out := maxOp .w24 (.mem (.abs addr)) (.place (.reg a)) s

/-- `MAX.MaR.32` (41_arith_logic.md R206). -/
def execMaxMaR32 (addr : Addr) (a : RegIx) (s : State) : Out := maxOp .w32 (.mem (.abs addr)) (.place (.reg a)) s

/-- `MAX.MrI.8` (41_arith_logic.md R206). -/
def execMaxMrI8 (a : RegIx) (imm : BitVec 8) (s : State) : Out := maxOp .w8 (.mem (.reg a)) (.imm imm) s

/-- `MAX.MrI.16` (41_arith_logic.md R206). -/
def execMaxMrI16 (a : RegIx) (imm : BitVec 16) (s : State) : Out := maxOp .w16 (.mem (.reg a)) (.imm imm) s

/-- `MAX.MrI.24` (41_arith_logic.md R206). -/
def execMaxMrI24 (a : RegIx) (imm : BitVec 24) (s : State) : Out := maxOp .w24 (.mem (.reg a)) (.imm imm) s

/-- `MAX.MrI.32` (41_arith_logic.md R206). -/
def execMaxMrI32 (a : RegIx) (imm : BitVec 32) (s : State) : Out := maxOp .w32 (.mem (.reg a)) (.imm imm) s

/-- `MAX.MaI.8` (41_arith_logic.md R206). -/
def execMaxMaI8 (addr : Addr) (imm : BitVec 8) (s : State) : Out := maxOp .w8 (.mem (.abs addr)) (.imm imm) s

/-- `MAX.MaI.16` (41_arith_logic.md R206). -/
def execMaxMaI16 (addr : Addr) (imm : BitVec 16) (s : State) : Out := maxOp .w16 (.mem (.abs addr)) (.imm imm) s

/-- `MAX.MaI.24` (41_arith_logic.md R206). -/
def execMaxMaI24 (addr : Addr) (imm : BitVec 24) (s : State) : Out := maxOp .w24 (.mem (.abs addr)) (.imm imm) s

/-- `MAX.MaI.32` (41_arith_logic.md R206). -/
def execMaxMaI32 (addr : Addr) (imm : BitVec 32) (s : State) : Out := maxOp .w32 (.mem (.abs addr)) (.imm imm) s

/-- `MAX.RF.8` (41_arith_logic.md R208). -/
def execMaxRF8 (a : RegIx) (fb : FloatIx) (s : State) : Out := maxFloatOp .w8 a fb s

/-- `MAX.RF.16` (41_arith_logic.md R208). -/
def execMaxRF16 (a : RegIx) (fb : FloatIx) (s : State) : Out := maxFloatOp .w16 a fb s

/-- `MAX.RF.24` (41_arith_logic.md R208). -/
def execMaxRF24 (a : RegIx) (fb : FloatIx) (s : State) : Out := maxFloatOp .w24 a fb s

/-- `MAX.RF.32` (41_arith_logic.md R208). -/
def execMaxRF32 (a : RegIx) (fb : FloatIx) (s : State) : Out := maxFloatOp .w32 a fb s

/-- `MAX.FF` (41_arith_logic.md R210). -/
def execMaxFF (fa fb : FloatIx) (s : State) : Out := maxFFOp fa fb s

/-! ## INC -/

/-- `INC.R.8` (41_arith_logic.md R211). -/
def execIncR8 (a : RegIx) (s : State) : Out := incOp .w8 (.reg a) s

/-- `INC.R.16` (41_arith_logic.md R211). -/
def execIncR16 (a : RegIx) (s : State) : Out := incOp .w16 (.reg a) s

/-- `INC.R.24` (41_arith_logic.md R211). -/
def execIncR24 (a : RegIx) (s : State) : Out := incOp .w24 (.reg a) s

/-- `INC.R.32` (41_arith_logic.md R211). -/
def execIncR32 (a : RegIx) (s : State) : Out := incOp .w32 (.reg a) s

/-- `INC.Mr.8` (41_arith_logic.md R211). -/
def execIncMr8 (a : RegIx) (s : State) : Out := incOp .w8 (.mem (.reg a)) s

/-- `INC.Mr.16` (41_arith_logic.md R211). -/
def execIncMr16 (a : RegIx) (s : State) : Out := incOp .w16 (.mem (.reg a)) s

/-- `INC.Mr.24` (41_arith_logic.md R211). -/
def execIncMr24 (a : RegIx) (s : State) : Out := incOp .w24 (.mem (.reg a)) s

/-- `INC.Mr.32` (41_arith_logic.md R211). -/
def execIncMr32 (a : RegIx) (s : State) : Out := incOp .w32 (.mem (.reg a)) s

/-- `INC.Ma.8` (41_arith_logic.md R211). -/
def execIncMa8 (addr : Addr) (s : State) : Out := incOp .w8 (.mem (.abs addr)) s

/-- `INC.Ma.16` (41_arith_logic.md R211). -/
def execIncMa16 (addr : Addr) (s : State) : Out := incOp .w16 (.mem (.abs addr)) s

/-- `INC.Ma.24` (41_arith_logic.md R211). -/
def execIncMa24 (addr : Addr) (s : State) : Out := incOp .w24 (.mem (.abs addr)) s

/-- `INC.Ma.32` (41_arith_logic.md R211). -/
def execIncMa32 (addr : Addr) (s : State) : Out := incOp .w32 (.mem (.abs addr)) s

/-! ## DEC -/

/-- `DEC.R.8` (41_arith_logic.md R212). -/
def execDecR8 (a : RegIx) (s : State) : Out := decOp .w8 (.reg a) s

/-- `DEC.R.16` (41_arith_logic.md R212). -/
def execDecR16 (a : RegIx) (s : State) : Out := decOp .w16 (.reg a) s

/-- `DEC.R.24` (41_arith_logic.md R212). -/
def execDecR24 (a : RegIx) (s : State) : Out := decOp .w24 (.reg a) s

/-- `DEC.R.32` (41_arith_logic.md R212). -/
def execDecR32 (a : RegIx) (s : State) : Out := decOp .w32 (.reg a) s

/-- `DEC.Mr.8` (41_arith_logic.md R212). -/
def execDecMr8 (a : RegIx) (s : State) : Out := decOp .w8 (.mem (.reg a)) s

/-- `DEC.Mr.16` (41_arith_logic.md R212). -/
def execDecMr16 (a : RegIx) (s : State) : Out := decOp .w16 (.mem (.reg a)) s

/-- `DEC.Mr.24` (41_arith_logic.md R212). -/
def execDecMr24 (a : RegIx) (s : State) : Out := decOp .w24 (.mem (.reg a)) s

/-- `DEC.Mr.32` (41_arith_logic.md R212). -/
def execDecMr32 (a : RegIx) (s : State) : Out := decOp .w32 (.mem (.reg a)) s

/-- `DEC.Ma.8` (41_arith_logic.md R212). -/
def execDecMa8 (addr : Addr) (s : State) : Out := decOp .w8 (.mem (.abs addr)) s

/-- `DEC.Ma.16` (41_arith_logic.md R212). -/
def execDecMa16 (addr : Addr) (s : State) : Out := decOp .w16 (.mem (.abs addr)) s

/-- `DEC.Ma.24` (41_arith_logic.md R212). -/
def execDecMa24 (addr : Addr) (s : State) : Out := decOp .w24 (.mem (.abs addr)) s

/-- `DEC.Ma.32` (41_arith_logic.md R212). -/
def execDecMa32 (addr : Addr) (s : State) : Out := decOp .w32 (.mem (.abs addr)) s

/-! ## INV -/

/-- `INV.R.8` (41_arith_logic.md R213). -/
def execInvR8 (a : RegIx) (s : State) : Out := invOp .w8 a s

/-- `INV.R.16` (41_arith_logic.md R213). -/
def execInvR16 (a : RegIx) (s : State) : Out := invOp .w16 a s

/-- `INV.R.24` (41_arith_logic.md R213). -/
def execInvR24 (a : RegIx) (s : State) : Out := invOp .w24 a s

/-- `INV.R.32` (41_arith_logic.md R213). -/
def execInvR32 (a : RegIx) (s : State) : Out := invOp .w32 a s

end Sys2Proof.Machine
end

