-- ==== Sys2Proof/Machine/Bulk.lean ====
section
/-! DEFINITION. Bulk memory: MEMC, MEMF, FIND, LDREGS, STREGS (45_bulk_memory.md). -/

namespace Sys2Proof.Machine

/-- The forward byte-by-byte copy: each read sees the writes before it (R351). -/
def copyForward : List Host.Cell → Nat → Nat → Nat → List Host.Cell
  | m, _, _, 0 => m
  | m, src, dst, n + 1 =>
    match Store.get m src with
    | none => copyForward m (src + 1) (dst + 1) n
    | some b => copyForward (Store.put m dst b) (src + 1) (dst + 1) n

/-- The memory after a copy of defined bytes `bs` from `src` (R351, `MEMC_OVERLAP`). -/
def copyBlock (o : MemcOverlap) (m : List Host.Cell) (src dst : Nat) (bs : List Byte) : List Host.Cell :=
  match o with
  | .forwardBytewise => copyForward m src dst bs.length
  | .memmove => putBytes m dst bs

/-- MEMC (R351). -/
def memcOp (src dst len : Source .w24) (s : State) : Out := finish (do
  let a ← readSource .w24 src s
  let d ← readSource .w24 dst s
  let n ← readSource .w24 len s
  checkBlock a.toNat n.toNat
  checkBlock d.toNat n.toNat
  let bs ← memBytes s.mem a.toNat n.toNat
  return { s with mem := copyBlock s.params.memcOverlap s.mem a.toNat d.toNat bs }.undefFlags)

/-- MEMF (R352). -/
def memfOp (val : Source .w8) (addr len : Source .w24) (s : State) : Out := finish (do
  let v ← readSource .w8 val s
  let a ← readSource .w24 addr s
  let n ← readSource .w24 len s
  checkBlock a.toNat n.toNat
  return { s with mem := putBytes s.mem a.toNat (List.replicate n.toNat v) }.undefFlags)

/-- The first of `fuel` addresses from `a` up that holds `b` (R353); an undefined byte before it faults. -/
def findByte (m : List Host.Cell) (b : Byte) : Nat → Nat → Except Fault (Option Nat)
  | 0, _ => .ok none
  | fuel + 1, a =>
    match Store.get m a with
    | none => .error .readUndefined
    | some c => if c = b then .ok (some a) else findByte m b fuel (a + 1)

/-- The bytes from `p` up before the first zero byte (R354), among `fuel` addresses. -/
def readPattern (m : List Host.Cell) : Nat → Nat → Except Fault (List Byte)
  | 0, _ => .error .memOutOfRange
  | fuel + 1, p =>
    match Store.get m p with
    | none => .error .readUndefined
    | some c => if c = 0 then .ok [] else do return c :: (← readPattern m fuel (p + 1))

/-- The zero-terminated pattern at address `p` (R354); one that no zero byte below `MEM_SIZE` ends faults. -/
def scanPattern (p : Addr) (s : State) : Except Fault (List Byte) := readPattern s.mem (memSize - p.toNat) p.toNat

/-- Do the bytes from `a` up begin with a pattern (R354)? Bytes are read up to the first mismatch. -/
def matchesAt (m : List Host.Cell) : Nat → List Byte → Except Fault Bool
  | _, [] => .ok true
  | a, b :: bs =>
    match Store.get m a with
    | none => .error .readUndefined
    | some c => if c = b then matchesAt m (a + 1) bs else .ok false

/-- The first of `fuel` addresses from `a` up at which a pattern stands (R354). -/
def findPattern (m : List Host.Cell) (pat : List Byte) : Nat → Nat → Except Fault (Option Nat)
  | 0, _ => .ok none
  | fuel + 1, a => do
    if (← matchesAt m a pat) then return some a else findPattern m pat fuel (a + 1)

/-- FIND's result (R353, R354): the address found, or UNDEF; every flag UNDEF. -/
def State.found (s : State) (a : RegIx) (r : Option Nat) : State :=
  match r with
  | some n => (s.setView .w24 a (BitVec.ofNat 24 n)).undefFlags
  | none => (s.setViewFree .w24 a).undefFlags

/-- FIND of a byte (R353). -/
def findByteOp (a : RegIx) (b : Source .w8) (s : State) : Out := finish (do
  let start ← readReg .w24 a s
  let v ← readSource .w8 b s
  let r ← findByte s.mem v (memSize - start.toNat) start.toNat
  return s.found a r)

/-- FIND of a pattern (R354): the pattern is scanned, then the start address is read, then memory is compared. -/
def findPatternOp (a : RegIx) (pattern : MemRef) (s : State) : Out := finish (do
  let p ← pattern.address s
  let pat ← scanPattern p s
  let start ← readReg .w24 a s
  let r ← findPattern s.mem pat (memSize + 1 - pat.length - start.toNat) start.toNat
  return s.found a r)

/-- The lowest register of a range and the number of registers in it, `|r1 - r2| + 1` (R355). -/
def regRange (a b : RegIx) : Nat × Nat := (min a.toNat b.toNat, max a.toNat b.toNat - min a.toNat b.toNat + 1)

/-- Every register of a range exists (R355). -/
def checkRange (first count : Nat) (s : State) : Except Fault Unit :=
  if first + count ≤ s.params.numIntRegs then .ok () else .error .regIndexOutOfRange

/-- `x8[i], x8[i+1], ... <- bs` (R355). -/
def loadRegs : Nat → List Byte → State → State
  | _, [], s => s
  | i, b :: bs, s => loadRegs (i + 1) bs (s.setView .w8 (BitVec.ofNat 5 i) b)

/-- `n` registers `x8[i], x8[i+1], ...` (R356), read in this order. -/
def storedRegs (s : State) : Nat → Nat → Except Fault (List Byte)
  | _, 0 => .ok []
  | i, n + 1 => do
    let b ← readReg .w8 (BitVec.ofNat 5 i) s
    return b :: (← storedRegs s (i + 1) n)

/-- LDREGS (R355): every byte is read before the first register write. -/
def ldregsOp (a b : RegIx) (block : MemRef) (s : State) : Out := finish (do
  let addr ← block.address s
  let r := regRange a b
  checkBlock addr.toNat r.2
  let bs ← memBytes s.mem addr.toNat r.2
  checkRange r.1 r.2 s
  return (loadRegs r.1 bs s).undefFlags)

/-- STREGS (R356): every register is read before the first store. -/
def stregsOp (a b : RegIx) (block : MemRef) (s : State) : Out := finish (do
  let addr ← block.address s
  let r := regRange a b
  checkBlock addr.toNat r.2
  let bs ← storedRegs s r.1 r.2
  return { s with mem := putBytes s.mem addr.toNat bs }.undefFlags)

/-! ## MEMC -/

/-- `MEMC.RRR` (45_bulk_memory.md R351). -/
def execMemcRRR (a b c : RegIx) (s : State) : Out := memcOp (.place (.reg a)) (.place (.reg b)) (.place (.reg c)) s

/-- `MEMC.RRI` (45_bulk_memory.md R351). -/
def execMemcRRI (a b : RegIx) (len : BitVec 24) (s : State) : Out := memcOp (.place (.reg a)) (.place (.reg b)) (.imm len) s

/-- `MEMC.RIR` (45_bulk_memory.md R351). -/
def execMemcRIR (a : RegIx) (dst : BitVec 24) (c : RegIx) (s : State) : Out :=
  memcOp (.place (.reg a)) (.imm dst) (.place (.reg c)) s

/-- `MEMC.RII` (45_bulk_memory.md R351). -/
def execMemcRII (a : RegIx) (dst len : BitVec 24) (s : State) : Out := memcOp (.place (.reg a)) (.imm dst) (.imm len) s

/-- `MEMC.IRR` (45_bulk_memory.md R351). -/
def execMemcIRR (src : BitVec 24) (b c : RegIx) (s : State) : Out := memcOp (.imm src) (.place (.reg b)) (.place (.reg c)) s

/-- `MEMC.IRI` (45_bulk_memory.md R351). -/
def execMemcIRI (src : BitVec 24) (b : RegIx) (len : BitVec 24) (s : State) : Out :=
  memcOp (.imm src) (.place (.reg b)) (.imm len) s

/-- `MEMC.IIR` (45_bulk_memory.md R351). -/
def execMemcIIR (src dst : BitVec 24) (c : RegIx) (s : State) : Out := memcOp (.imm src) (.imm dst) (.place (.reg c)) s

/-- `MEMC.III` (45_bulk_memory.md R351). -/
def execMemcIII (src dst len : BitVec 24) (s : State) : Out := memcOp (.imm src) (.imm dst) (.imm len) s

/-! ## MEMF -/

/-- `MEMF.RRR` (45_bulk_memory.md R352). -/
def execMemfRRR (a b c : RegIx) (s : State) : Out := memfOp (.place (.reg a)) (.place (.reg b)) (.place (.reg c)) s

/-- `MEMF.RRI` (45_bulk_memory.md R352). -/
def execMemfRRI (a b : RegIx) (len : BitVec 24) (s : State) : Out := memfOp (.place (.reg a)) (.place (.reg b)) (.imm len) s

/-- `MEMF.RIR` (45_bulk_memory.md R352). -/
def execMemfRIR (a : RegIx) (addr : BitVec 24) (c : RegIx) (s : State) : Out :=
  memfOp (.place (.reg a)) (.imm addr) (.place (.reg c)) s

/-- `MEMF.RII` (45_bulk_memory.md R352). -/
def execMemfRII (a : RegIx) (addr len : BitVec 24) (s : State) : Out := memfOp (.place (.reg a)) (.imm addr) (.imm len) s

/-- `MEMF.IRR` (45_bulk_memory.md R352). -/
def execMemfIRR (val : Byte) (b c : RegIx) (s : State) : Out := memfOp (.imm val) (.place (.reg b)) (.place (.reg c)) s

/-- `MEMF.IRI` (45_bulk_memory.md R352). -/
def execMemfIRI (val : Byte) (b : RegIx) (len : BitVec 24) (s : State) : Out :=
  memfOp (.imm val) (.place (.reg b)) (.imm len) s

/-- `MEMF.IIR` (45_bulk_memory.md R352). -/
def execMemfIIR (val : Byte) (addr : BitVec 24) (c : RegIx) (s : State) : Out :=
  memfOp (.imm val) (.imm addr) (.place (.reg c)) s

/-- `MEMF.III` (45_bulk_memory.md R352). -/
def execMemfIII (val : Byte) (addr len : BitVec 24) (s : State) : Out := memfOp (.imm val) (.imm addr) (.imm len) s

/-! ## FIND -/

/-- `FIND.BI` (45_bulk_memory.md R353). -/
def execFindBI (a : RegIx) (n : Byte) (s : State) : Out := findByteOp a (.imm n) s

/-- `FIND.BR` (45_bulk_memory.md R353). -/
def execFindBR (a b : RegIx) (s : State) : Out := findByteOp a (.place (.reg b)) s

/-- `FIND.PA` (45_bulk_memory.md R354). -/
def execFindPA (a : RegIx) (addr : Addr) (s : State) : Out := findPatternOp a (.abs addr) s

/-- `FIND.PR` (45_bulk_memory.md R354). -/
def execFindPR (a b : RegIx) (s : State) : Out := findPatternOp a (.reg b) s

/-! ## LDREGS -/

/-- `LDREGS.Ma` (45_bulk_memory.md R355). -/
def execLdregsMa (a b : RegIx) (addr : Addr) (s : State) : Out := ldregsOp a b (.abs addr) s

/-- `LDREGS.Mr` (45_bulk_memory.md R355). -/
def execLdregsMr (a b c : RegIx) (s : State) : Out := ldregsOp a b (.reg c) s

/-! ## STREGS -/

/-- `STREGS.Ma` (45_bulk_memory.md R356). -/
def execStregsMa (a b : RegIx) (addr : Addr) (s : State) : Out := stregsOp a b (.abs addr) s

/-- `STREGS.Mr` (45_bulk_memory.md R356). -/
def execStregsMr (a b c : RegIx) (s : State) : Out := stregsOp a b (.reg c) s

end Sys2Proof.Machine
end

