-- ==== Sys2Proof/Machine/Compare.lean ====
section
/-! DEFINITION. Signed compare: SCP (43_control_compare.md R292, R293). -/

namespace Sys2Proof.Machine

/-- SCP (R293): both operands are read, then the six flags of R292 are written together; nothing else changes. -/
def scpOp (w : Width) (first : Place) (second : Source w) (s : State) : Out := finish (do
  let d ← readPlace w first s
  let x ← readSource w second s
  return s.compareFlags w d x)

/-! ## SCP -/

/-- `SCP.RR.8` (43_control_compare.md R293). -/
def execScpRR8 (a b : RegIx) (s : State) : Out := scpOp .w8 (.reg a) (.place (.reg b)) s

/-- `SCP.RR.16` (43_control_compare.md R293). -/
def execScpRR16 (a b : RegIx) (s : State) : Out := scpOp .w16 (.reg a) (.place (.reg b)) s

/-- `SCP.RR.24` (43_control_compare.md R293). -/
def execScpRR24 (a b : RegIx) (s : State) : Out := scpOp .w24 (.reg a) (.place (.reg b)) s

/-- `SCP.RR.32` (43_control_compare.md R293). -/
def execScpRR32 (a b : RegIx) (s : State) : Out := scpOp .w32 (.reg a) (.place (.reg b)) s

/-- `SCP.RI.8` (43_control_compare.md R293). -/
def execScpRI8 (a : RegIx) (imm : BitVec 8) (s : State) : Out := scpOp .w8 (.reg a) (.imm imm) s

/-- `SCP.RI.16` (43_control_compare.md R293). -/
def execScpRI16 (a : RegIx) (imm : BitVec 16) (s : State) : Out := scpOp .w16 (.reg a) (.imm imm) s

/-- `SCP.RI.24` (43_control_compare.md R293). -/
def execScpRI24 (a : RegIx) (imm : BitVec 24) (s : State) : Out := scpOp .w24 (.reg a) (.imm imm) s

/-- `SCP.RI.32` (43_control_compare.md R293). -/
def execScpRI32 (a : RegIx) (imm : BitVec 32) (s : State) : Out := scpOp .w32 (.reg a) (.imm imm) s

/-- `SCP.RMr.8` (43_control_compare.md R293). -/
def execScpRMr8 (a b : RegIx) (s : State) : Out := scpOp .w8 (.reg a) (.place (.mem (.reg b))) s

/-- `SCP.RMr.16` (43_control_compare.md R293). -/
def execScpRMr16 (a b : RegIx) (s : State) : Out := scpOp .w16 (.reg a) (.place (.mem (.reg b))) s

/-- `SCP.RMr.24` (43_control_compare.md R293). -/
def execScpRMr24 (a b : RegIx) (s : State) : Out := scpOp .w24 (.reg a) (.place (.mem (.reg b))) s

/-- `SCP.RMr.32` (43_control_compare.md R293). -/
def execScpRMr32 (a b : RegIx) (s : State) : Out := scpOp .w32 (.reg a) (.place (.mem (.reg b))) s

/-- `SCP.RMa.8` (43_control_compare.md R293). -/
def execScpRMa8 (a : RegIx) (addr : Addr) (s : State) : Out := scpOp .w8 (.reg a) (.place (.mem (.abs addr))) s

/-- `SCP.RMa.16` (43_control_compare.md R293). -/
def execScpRMa16 (a : RegIx) (addr : Addr) (s : State) : Out := scpOp .w16 (.reg a) (.place (.mem (.abs addr))) s

/-- `SCP.RMa.24` (43_control_compare.md R293). -/
def execScpRMa24 (a : RegIx) (addr : Addr) (s : State) : Out := scpOp .w24 (.reg a) (.place (.mem (.abs addr))) s

/-- `SCP.RMa.32` (43_control_compare.md R293). -/
def execScpRMa32 (a : RegIx) (addr : Addr) (s : State) : Out := scpOp .w32 (.reg a) (.place (.mem (.abs addr))) s

/-- `SCP.MrR.8` (43_control_compare.md R293). -/
def execScpMrR8 (a b : RegIx) (s : State) : Out := scpOp .w8 (.mem (.reg a)) (.place (.reg b)) s

/-- `SCP.MrR.16` (43_control_compare.md R293). -/
def execScpMrR16 (a b : RegIx) (s : State) : Out := scpOp .w16 (.mem (.reg a)) (.place (.reg b)) s

/-- `SCP.MrR.24` (43_control_compare.md R293). -/
def execScpMrR24 (a b : RegIx) (s : State) : Out := scpOp .w24 (.mem (.reg a)) (.place (.reg b)) s

/-- `SCP.MrR.32` (43_control_compare.md R293). -/
def execScpMrR32 (a b : RegIx) (s : State) : Out := scpOp .w32 (.mem (.reg a)) (.place (.reg b)) s

/-- `SCP.MaR.8` (43_control_compare.md R293). -/
def execScpMaR8 (addr : Addr) (a : RegIx) (s : State) : Out := scpOp .w8 (.mem (.abs addr)) (.place (.reg a)) s

/-- `SCP.MaR.16` (43_control_compare.md R293). -/
def execScpMaR16 (addr : Addr) (a : RegIx) (s : State) : Out := scpOp .w16 (.mem (.abs addr)) (.place (.reg a)) s

/-- `SCP.MaR.24` (43_control_compare.md R293). -/
def execScpMaR24 (addr : Addr) (a : RegIx) (s : State) : Out := scpOp .w24 (.mem (.abs addr)) (.place (.reg a)) s

/-- `SCP.MaR.32` (43_control_compare.md R293). -/
def execScpMaR32 (addr : Addr) (a : RegIx) (s : State) : Out := scpOp .w32 (.mem (.abs addr)) (.place (.reg a)) s

/-- `SCP.MrI.8` (43_control_compare.md R293). -/
def execScpMrI8 (a : RegIx) (imm : BitVec 8) (s : State) : Out := scpOp .w8 (.mem (.reg a)) (.imm imm) s

/-- `SCP.MrI.16` (43_control_compare.md R293). -/
def execScpMrI16 (a : RegIx) (imm : BitVec 16) (s : State) : Out := scpOp .w16 (.mem (.reg a)) (.imm imm) s

/-- `SCP.MrI.24` (43_control_compare.md R293). -/
def execScpMrI24 (a : RegIx) (imm : BitVec 24) (s : State) : Out := scpOp .w24 (.mem (.reg a)) (.imm imm) s

/-- `SCP.MrI.32` (43_control_compare.md R293). -/
def execScpMrI32 (a : RegIx) (imm : BitVec 32) (s : State) : Out := scpOp .w32 (.mem (.reg a)) (.imm imm) s

/-- `SCP.MaI.8` (43_control_compare.md R293). -/
def execScpMaI8 (addr : Addr) (imm : BitVec 8) (s : State) : Out := scpOp .w8 (.mem (.abs addr)) (.imm imm) s

/-- `SCP.MaI.16` (43_control_compare.md R293). -/
def execScpMaI16 (addr : Addr) (imm : BitVec 16) (s : State) : Out := scpOp .w16 (.mem (.abs addr)) (.imm imm) s

/-- `SCP.MaI.24` (43_control_compare.md R293). -/
def execScpMaI24 (addr : Addr) (imm : BitVec 24) (s : State) : Out := scpOp .w24 (.mem (.abs addr)) (.imm imm) s

/-- `SCP.MaI.32` (43_control_compare.md R293). -/
def execScpMaI32 (addr : Addr) (imm : BitVec 32) (s : State) : Out := scpOp .w32 (.mem (.abs addr)) (.imm imm) s

end Sys2Proof.Machine
end

