-- ==== Sys2Proof/Machine/Control.lean ====
section
/-! DEFINITION. Control transfer: JP, JR, CALL, CALLR, RET, RETIF (43_control_compare.md R280 to R291). `IPO` is already past the
instruction when a meaning runs. No flag changes (R280). -/

namespace Sys2Proof.Machine

/-- `IPO <- zext_32(t)`. -/
def State.jump (s : State) (t : Addr) : State := { s with ipo := t.setWidth 32 }

/-- The bytes a JR or CALLR subtracts (R284): its own length. -/
abbrev relativeSize : Word := 5

/-- `IPO <- trunc_32(IPO + sext_32(off) - 5)` (R284). -/
def State.jumpRelative (s : State) (off : BitVec 24) : State := { s with ipo := s.ipo + off.signExtend 32 - relativeSize }

/-- A return (R289): the top of the call stack, or the underflow halt (R291). -/
def State.doReturn (s : State) : State := if s.spc = 0 then s.halt else s.popReturn

/-- JP to an address or a register (R281, R282). -/
def jpOp (target : MemRef) (s : State) : Out := finish (do
  let t ← target.address s
  return s.jump t)

/-- JP on a flag (R283). -/
def jpCondOp (flag : FlagIx) (addr : Addr) (s : State) : Out := finish (do
  let c ← readFlag flag s
  return if c then s.jump addr else s)

/-- JR (R284). -/
def jrOp (off : BitVec 24) (s : State) : Out := .next (s.jumpRelative off)

/-- The push and the jump of a call to an address (R285). -/
def callTo (t : Addr) (s : State) : Except Fault State := do
  let u ← pushReturn s
  return u.jump t

/-- CALL to an address or a register (R285, R286): the target is read before the push. -/
def callOp (target : MemRef) (s : State) : Out := finish (do
  let t ← target.address s
  callTo t s)

/-- CALL on a flag (R287). -/
def callCondOp (flag : FlagIx) (addr : Addr) (s : State) : Out := finish (do
  let c ← readFlag flag s
  if c then callTo addr s else return s)

/-- CALLR (R288). -/
def callrOp (off : BitVec 24) (s : State) : Out := finish (do
  let u ← pushReturn s
  return u.jumpRelative off)

/-- RET (R289). -/
def retOp (s : State) : Out := .next s.doReturn

/-- RETIF (R290): not taken with an empty call stack, a draw decides between the underflow halt and going on. -/
def retifOp (flag : FlagIx) (s : State) : Out := finish (do
  let c ← readFlag flag s
  return if c then s.doReturn
    else if s.spc = 0 then (if s.free.getLsbD 0 then s.tick.halt else s.tick)
    else s)

/-! ## JP -/

/-- `JP.IMM` (43_control_compare.md R281). -/
def execJpImm (addr : Addr) (s : State) : Out := jpOp (.abs addr) s

/-- `JP.REG` (43_control_compare.md R282). -/
def execJpReg (r : RegIx) (s : State) : Out := jpOp (.reg r) s

/-- `JP.COND` (43_control_compare.md R283). -/
def execJpCond (flag : FlagIx) (addr : Addr) (s : State) : Out := jpCondOp flag addr s

/-! ## JR -/

/-- `JR.REL` (43_control_compare.md R284). -/
def execJrRel (off : BitVec 24) (s : State) : Out := jrOp off s

/-! ## CALL -/

/-- `CALL.IMM` (43_control_compare.md R285). -/
def execCallImm (addr : Addr) (s : State) : Out := callOp (.abs addr) s

/-- `CALL.REG` (43_control_compare.md R286). -/
def execCallReg (r : RegIx) (s : State) : Out := callOp (.reg r) s

/-- `CALL.COND` (43_control_compare.md R287). -/
def execCallCond (flag : FlagIx) (addr : Addr) (s : State) : Out := callCondOp flag addr s

/-! ## CALLR -/

/-- `CALLR.REL` (43_control_compare.md R288). -/
def execCallrRel (off : BitVec 24) (s : State) : Out := callrOp off s

/-! ## RET -/

/-- `RET.RET` (43_control_compare.md R289). -/
def execRet (s : State) : Out := retOp s

/-! ## RETIF -/

/-- `RETIF.RETIF` (43_control_compare.md R290). -/
def execRetif (flag : FlagIx) (s : State) : Out := retifOp flag s

end Sys2Proof.Machine
end

