-- ==== Sys2Proof/Machine/FloatOps.lean ====
section
/-! DEFINITION. Floating point: SQR, CBR, POW, SIN, FLOOR, ROUND (44_float.md R320 to R331). The 13 forms of each are one operation
over the operand kinds of R321. -/

namespace Sys2Proof.Machine

/-- The value of an operand as a binary32 pattern (R321, R322). -/
def readFloat (p : FloatPlace) (s : State) : Except Fault Word :=
  match p with
  | .freg j => readFloatReg j s
  | .ireg w x => do return cvtU2F w (← readReg w x s)
  | .mem m => do readMem .w32 (← m.address s) s

/-- Write a result and the flags (R321, R323): an integer register through the range check, which comes before the access
(60_exceptions.md R429). -/
def writeFloat (p : FloatPlace) (r : Word) (s : State) : Except Fault State :=
  match p with
  | .freg j => .ok (s.setFloat j r).undefFlags
  | .ireg w x =>
    match truncToWidth w r with
    | some v => do
      let t ← writeReg w x v s
      return t.rangeFlags false
    | none => .ok (s.rangeFlags true)
  | .mem m => do
    let t ← writeMem .w32 (← m.address s) r s
    return t.undefFlags

/-- A unary float operation (R325). -/
def floatUnary (f : Word → Word) (dst src : FloatPlace) (s : State) : Out := finish (do
  let x ← readFloat src s
  writeFloat dst (f x) s)

/-- SQR (R325). -/
def sqrOp (dst src : FloatPlace) (s : State) : Out := floatUnary fsqrt dst src s

/-- CBR (R326). -/
def cbrOp (dst src : FloatPlace) (s : State) : Out := floatUnary fcbrt dst src s

/-- SIN (R328). -/
def sinOp (dst src : FloatPlace) (s : State) : Out := floatUnary fsin dst src s

/-- FLOOR (R329). -/
def floorOp (dst src : FloatPlace) (s : State) : Out := floatUnary ffloor dst src s

/-- ROUND (R330). -/
def roundOp (dst src : FloatPlace) (s : State) : Out := floatUnary fround dst src s

/-- POW (R327): the old destination is the base, the input the exponent. -/
def powOp (dst src : FloatPlace) (s : State) : Out := finish (do
  let y ← readFloat dst s
  let x ← readFloat src s
  writeFloat dst (fpow y x) s)

/-! ## SQR -/

/-- `SQR.FF` (44_float.md R325). -/
def execSqrFF (fa fb : FloatIx) (s : State) : Out := sqrOp (.freg fa) (.freg fb) s

/-- `SQR.FR.8` (44_float.md R325). -/
def execSqrFR8 (fb : FloatIx) (a : RegIx) (s : State) : Out := sqrOp (.freg fb) (.ireg .w8 a) s

/-- `SQR.FR.16` (44_float.md R325). -/
def execSqrFR16 (fb : FloatIx) (a : RegIx) (s : State) : Out := sqrOp (.freg fb) (.ireg .w16 a) s

/-- `SQR.FR.24` (44_float.md R325). -/
def execSqrFR24 (fb : FloatIx) (a : RegIx) (s : State) : Out := sqrOp (.freg fb) (.ireg .w24 a) s

/-- `SQR.FR.32` (44_float.md R325). -/
def execSqrFR32 (fb : FloatIx) (a : RegIx) (s : State) : Out := sqrOp (.freg fb) (.ireg .w32 a) s

/-- `SQR.RF.8` (44_float.md R325). -/
def execSqrRF8 (a : RegIx) (fb : FloatIx) (s : State) : Out := sqrOp (.ireg .w8 a) (.freg fb) s

/-- `SQR.RF.16` (44_float.md R325). -/
def execSqrRF16 (a : RegIx) (fb : FloatIx) (s : State) : Out := sqrOp (.ireg .w16 a) (.freg fb) s

/-- `SQR.RF.24` (44_float.md R325). -/
def execSqrRF24 (a : RegIx) (fb : FloatIx) (s : State) : Out := sqrOp (.ireg .w24 a) (.freg fb) s

/-- `SQR.RF.32` (44_float.md R325). -/
def execSqrRF32 (a : RegIx) (fb : FloatIx) (s : State) : Out := sqrOp (.ireg .w32 a) (.freg fb) s

/-- `SQR.FMr` (44_float.md R325). -/
def execSqrFMr (fb : FloatIx) (a : RegIx) (s : State) : Out := sqrOp (.freg fb) (.mem (.reg a)) s

/-- `SQR.MrF` (44_float.md R325). -/
def execSqrMrF (a : RegIx) (fb : FloatIx) (s : State) : Out := sqrOp (.mem (.reg a)) (.freg fb) s

/-- `SQR.FMa` (44_float.md R325). -/
def execSqrFMa (fa : FloatIx) (addr : Addr) (s : State) : Out := sqrOp (.freg fa) (.mem (.abs addr)) s

/-- `SQR.MaF` (44_float.md R325). -/
def execSqrMaF (addr : Addr) (fa : FloatIx) (s : State) : Out := sqrOp (.mem (.abs addr)) (.freg fa) s

/-! ## CBR -/

/-- `CBR.FF` (44_float.md R326). -/
def execCbrFF (fa fb : FloatIx) (s : State) : Out := cbrOp (.freg fa) (.freg fb) s

/-- `CBR.FR.8` (44_float.md R326). -/
def execCbrFR8 (fb : FloatIx) (a : RegIx) (s : State) : Out := cbrOp (.freg fb) (.ireg .w8 a) s

/-- `CBR.FR.16` (44_float.md R326). -/
def execCbrFR16 (fb : FloatIx) (a : RegIx) (s : State) : Out := cbrOp (.freg fb) (.ireg .w16 a) s

/-- `CBR.FR.24` (44_float.md R326). -/
def execCbrFR24 (fb : FloatIx) (a : RegIx) (s : State) : Out := cbrOp (.freg fb) (.ireg .w24 a) s

/-- `CBR.FR.32` (44_float.md R326). -/
def execCbrFR32 (fb : FloatIx) (a : RegIx) (s : State) : Out := cbrOp (.freg fb) (.ireg .w32 a) s

/-- `CBR.RF.8` (44_float.md R326). -/
def execCbrRF8 (a : RegIx) (fb : FloatIx) (s : State) : Out := cbrOp (.ireg .w8 a) (.freg fb) s

/-- `CBR.RF.16` (44_float.md R326). -/
def execCbrRF16 (a : RegIx) (fb : FloatIx) (s : State) : Out := cbrOp (.ireg .w16 a) (.freg fb) s

/-- `CBR.RF.24` (44_float.md R326). -/
def execCbrRF24 (a : RegIx) (fb : FloatIx) (s : State) : Out := cbrOp (.ireg .w24 a) (.freg fb) s

/-- `CBR.RF.32` (44_float.md R326). -/
def execCbrRF32 (a : RegIx) (fb : FloatIx) (s : State) : Out := cbrOp (.ireg .w32 a) (.freg fb) s

/-- `CBR.FMr` (44_float.md R326). -/
def execCbrFMr (fb : FloatIx) (a : RegIx) (s : State) : Out := cbrOp (.freg fb) (.mem (.reg a)) s

/-- `CBR.MrF` (44_float.md R326). -/
def execCbrMrF (a : RegIx) (fb : FloatIx) (s : State) : Out := cbrOp (.mem (.reg a)) (.freg fb) s

/-- `CBR.FMa` (44_float.md R326). -/
def execCbrFMa (fa : FloatIx) (addr : Addr) (s : State) : Out := cbrOp (.freg fa) (.mem (.abs addr)) s

/-- `CBR.MaF` (44_float.md R326). -/
def execCbrMaF (addr : Addr) (fa : FloatIx) (s : State) : Out := cbrOp (.mem (.abs addr)) (.freg fa) s

/-! ## POW -/

/-- `POW.FF` (44_float.md R327). -/
def execPowFF (fa fb : FloatIx) (s : State) : Out := powOp (.freg fa) (.freg fb) s

/-- `POW.FR.8` (44_float.md R327). -/
def execPowFR8 (fb : FloatIx) (a : RegIx) (s : State) : Out := powOp (.freg fb) (.ireg .w8 a) s

/-- `POW.FR.16` (44_float.md R327). -/
def execPowFR16 (fb : FloatIx) (a : RegIx) (s : State) : Out := powOp (.freg fb) (.ireg .w16 a) s

/-- `POW.FR.24` (44_float.md R327). -/
def execPowFR24 (fb : FloatIx) (a : RegIx) (s : State) : Out := powOp (.freg fb) (.ireg .w24 a) s

/-- `POW.FR.32` (44_float.md R327). -/
def execPowFR32 (fb : FloatIx) (a : RegIx) (s : State) : Out := powOp (.freg fb) (.ireg .w32 a) s

/-- `POW.RF.8` (44_float.md R327). -/
def execPowRF8 (a : RegIx) (fb : FloatIx) (s : State) : Out := powOp (.ireg .w8 a) (.freg fb) s

/-- `POW.RF.16` (44_float.md R327). -/
def execPowRF16 (a : RegIx) (fb : FloatIx) (s : State) : Out := powOp (.ireg .w16 a) (.freg fb) s

/-- `POW.RF.24` (44_float.md R327). -/
def execPowRF24 (a : RegIx) (fb : FloatIx) (s : State) : Out := powOp (.ireg .w24 a) (.freg fb) s

/-- `POW.RF.32` (44_float.md R327). -/
def execPowRF32 (a : RegIx) (fb : FloatIx) (s : State) : Out := powOp (.ireg .w32 a) (.freg fb) s

/-- `POW.FMr` (44_float.md R327). -/
def execPowFMr (fb : FloatIx) (a : RegIx) (s : State) : Out := powOp (.freg fb) (.mem (.reg a)) s

/-- `POW.MrF` (44_float.md R327). -/
def execPowMrF (a : RegIx) (fb : FloatIx) (s : State) : Out := powOp (.mem (.reg a)) (.freg fb) s

/-- `POW.FMa` (44_float.md R327). -/
def execPowFMa (fa : FloatIx) (addr : Addr) (s : State) : Out := powOp (.freg fa) (.mem (.abs addr)) s

/-- `POW.MaF` (44_float.md R327). -/
def execPowMaF (addr : Addr) (fa : FloatIx) (s : State) : Out := powOp (.mem (.abs addr)) (.freg fa) s

/-! ## SIN -/

/-- `SIN.FF` (44_float.md R328). -/
def execSinFF (fa fb : FloatIx) (s : State) : Out := sinOp (.freg fa) (.freg fb) s

/-- `SIN.FR.8` (44_float.md R328). -/
def execSinFR8 (fb : FloatIx) (a : RegIx) (s : State) : Out := sinOp (.freg fb) (.ireg .w8 a) s

/-- `SIN.FR.16` (44_float.md R328). -/
def execSinFR16 (fb : FloatIx) (a : RegIx) (s : State) : Out := sinOp (.freg fb) (.ireg .w16 a) s

/-- `SIN.FR.24` (44_float.md R328). -/
def execSinFR24 (fb : FloatIx) (a : RegIx) (s : State) : Out := sinOp (.freg fb) (.ireg .w24 a) s

/-- `SIN.FR.32` (44_float.md R328). -/
def execSinFR32 (fb : FloatIx) (a : RegIx) (s : State) : Out := sinOp (.freg fb) (.ireg .w32 a) s

/-- `SIN.RF.8` (44_float.md R328). -/
def execSinRF8 (a : RegIx) (fb : FloatIx) (s : State) : Out := sinOp (.ireg .w8 a) (.freg fb) s

/-- `SIN.RF.16` (44_float.md R328). -/
def execSinRF16 (a : RegIx) (fb : FloatIx) (s : State) : Out := sinOp (.ireg .w16 a) (.freg fb) s

/-- `SIN.RF.24` (44_float.md R328). -/
def execSinRF24 (a : RegIx) (fb : FloatIx) (s : State) : Out := sinOp (.ireg .w24 a) (.freg fb) s

/-- `SIN.RF.32` (44_float.md R328). -/
def execSinRF32 (a : RegIx) (fb : FloatIx) (s : State) : Out := sinOp (.ireg .w32 a) (.freg fb) s

/-- `SIN.FMr` (44_float.md R328). -/
def execSinFMr (fb : FloatIx) (a : RegIx) (s : State) : Out := sinOp (.freg fb) (.mem (.reg a)) s

/-- `SIN.MrF` (44_float.md R328). -/
def execSinMrF (a : RegIx) (fb : FloatIx) (s : State) : Out := sinOp (.mem (.reg a)) (.freg fb) s

/-- `SIN.FMa` (44_float.md R328). -/
def execSinFMa (fa : FloatIx) (addr : Addr) (s : State) : Out := sinOp (.freg fa) (.mem (.abs addr)) s

/-- `SIN.MaF` (44_float.md R328). -/
def execSinMaF (addr : Addr) (fa : FloatIx) (s : State) : Out := sinOp (.mem (.abs addr)) (.freg fa) s

/-! ## FLOOR -/

/-- `FLOOR.FF` (44_float.md R329). -/
def execFloorFF (fa fb : FloatIx) (s : State) : Out := floorOp (.freg fa) (.freg fb) s

/-- `FLOOR.FR.8` (44_float.md R329). -/
def execFloorFR8 (fb : FloatIx) (a : RegIx) (s : State) : Out := floorOp (.freg fb) (.ireg .w8 a) s

/-- `FLOOR.FR.16` (44_float.md R329). -/
def execFloorFR16 (fb : FloatIx) (a : RegIx) (s : State) : Out := floorOp (.freg fb) (.ireg .w16 a) s

/-- `FLOOR.FR.24` (44_float.md R329). -/
def execFloorFR24 (fb : FloatIx) (a : RegIx) (s : State) : Out := floorOp (.freg fb) (.ireg .w24 a) s

/-- `FLOOR.FR.32` (44_float.md R329). -/
def execFloorFR32 (fb : FloatIx) (a : RegIx) (s : State) : Out := floorOp (.freg fb) (.ireg .w32 a) s

/-- `FLOOR.RF.8` (44_float.md R329). -/
def execFloorRF8 (a : RegIx) (fb : FloatIx) (s : State) : Out := floorOp (.ireg .w8 a) (.freg fb) s

/-- `FLOOR.RF.16` (44_float.md R329). -/
def execFloorRF16 (a : RegIx) (fb : FloatIx) (s : State) : Out := floorOp (.ireg .w16 a) (.freg fb) s

/-- `FLOOR.RF.24` (44_float.md R329). -/
def execFloorRF24 (a : RegIx) (fb : FloatIx) (s : State) : Out := floorOp (.ireg .w24 a) (.freg fb) s

/-- `FLOOR.RF.32` (44_float.md R329). -/
def execFloorRF32 (a : RegIx) (fb : FloatIx) (s : State) : Out := floorOp (.ireg .w32 a) (.freg fb) s

/-- `FLOOR.FMr` (44_float.md R329). -/
def execFloorFMr (fb : FloatIx) (a : RegIx) (s : State) : Out := floorOp (.freg fb) (.mem (.reg a)) s

/-- `FLOOR.MrF` (44_float.md R329). -/
def execFloorMrF (a : RegIx) (fb : FloatIx) (s : State) : Out := floorOp (.mem (.reg a)) (.freg fb) s

/-- `FLOOR.FMa` (44_float.md R329). -/
def execFloorFMa (fa : FloatIx) (addr : Addr) (s : State) : Out := floorOp (.freg fa) (.mem (.abs addr)) s

/-- `FLOOR.MaF` (44_float.md R329). -/
def execFloorMaF (addr : Addr) (fa : FloatIx) (s : State) : Out := floorOp (.mem (.abs addr)) (.freg fa) s

/-! ## ROUND -/

/-- `ROUND.FF` (44_float.md R330). -/
def execRoundFF (fa fb : FloatIx) (s : State) : Out := roundOp (.freg fa) (.freg fb) s

/-- `ROUND.FR.8` (44_float.md R330). -/
def execRoundFR8 (fb : FloatIx) (a : RegIx) (s : State) : Out := roundOp (.freg fb) (.ireg .w8 a) s

/-- `ROUND.FR.16` (44_float.md R330). -/
def execRoundFR16 (fb : FloatIx) (a : RegIx) (s : State) : Out := roundOp (.freg fb) (.ireg .w16 a) s

/-- `ROUND.FR.24` (44_float.md R330). -/
def execRoundFR24 (fb : FloatIx) (a : RegIx) (s : State) : Out := roundOp (.freg fb) (.ireg .w24 a) s

/-- `ROUND.FR.32` (44_float.md R330). -/
def execRoundFR32 (fb : FloatIx) (a : RegIx) (s : State) : Out := roundOp (.freg fb) (.ireg .w32 a) s

/-- `ROUND.RF.8` (44_float.md R330). -/
def execRoundRF8 (a : RegIx) (fb : FloatIx) (s : State) : Out := roundOp (.ireg .w8 a) (.freg fb) s

/-- `ROUND.RF.16` (44_float.md R330). -/
def execRoundRF16 (a : RegIx) (fb : FloatIx) (s : State) : Out := roundOp (.ireg .w16 a) (.freg fb) s

/-- `ROUND.RF.24` (44_float.md R330). -/
def execRoundRF24 (a : RegIx) (fb : FloatIx) (s : State) : Out := roundOp (.ireg .w24 a) (.freg fb) s

/-- `ROUND.RF.32` (44_float.md R330). -/
def execRoundRF32 (a : RegIx) (fb : FloatIx) (s : State) : Out := roundOp (.ireg .w32 a) (.freg fb) s

/-- `ROUND.FMr` (44_float.md R330). -/
def execRoundFMr (fb : FloatIx) (a : RegIx) (s : State) : Out := roundOp (.freg fb) (.mem (.reg a)) s

/-- `ROUND.MrF` (44_float.md R330). -/
def execRoundMrF (a : RegIx) (fb : FloatIx) (s : State) : Out := roundOp (.mem (.reg a)) (.freg fb) s

/-- `ROUND.FMa` (44_float.md R330). -/
def execRoundFMa (fa : FloatIx) (addr : Addr) (s : State) : Out := roundOp (.freg fa) (.mem (.abs addr)) s

/-- `ROUND.MaF` (44_float.md R330). -/
def execRoundMaF (addr : Addr) (fa : FloatIx) (s : State) : Out := roundOp (.mem (.abs addr)) (.freg fa) s

end Sys2Proof.Machine
end

