-- ==== Sys2Proof/Machine/Misc.lean ====
section
/-! DEFINITION. Miscellaneous and system: EX, BANKSEL, RAND, WAIT, SETVAR, GETVAR, SMUL, PLAY, VCL, VDL, INT, BREAK
(46_misc_system.md). -/

namespace Sys2Proof.Machine

/-- EX (R381): both reads, then the write to `A`, then the write to `B`. -/
def exOp (w : Width) (a b : RegIx) (s : State) : Out := finish (do
  let x ← readReg w a s
  let y ← readReg w b s
  let t ← writeReg w a y s
  let u ← writeReg w b x t
  return u.undefFlags)

/-- `BANK <- n`, or `BankOutOfRange` (R382). -/
def setBank (n : Nat) (s : State) : Except Fault State :=
  if n < s.params.numBanks then .ok { s with bank := n } else .error .bankOutOfRange

/-- BANKSEL (R382): the index is read in the current bank. -/
def bankselOp (n : Source .w8) (s : State) : Out := finish (do
  let v ← readSource .w8 n s
  let t ← setBank v.toNat s
  return t.undefFlags)

/-- RAND (R383): the value is a draw. -/
def randOp (w : Width) (a : RegIx) (s : State) : Out := finish (do
  let t ← writeReg w a ((Config.randValue s.rng s.draws).setWidth w.bits) s.tick
  return t.undefFlags)

/-- `RNG <- any state` (R384), from the seed. -/
def State.reseed (s : State) (seed : Word) : State := { s.tick with rng := Config.randState seed s.draws }

/-- RAND's seed forms (R384). -/
def randSeedOp (seed : Source .w32) (s : State) : Out := finish (do
  let v ← readSource .w32 seed s
  return (s.reseed v).undefFlags)

/-- WAIT (R385): a host event; the delay is outside the model. -/
def waitOp (ms : Source .w16) (s : State) : Out := finish (do
  let v ← readSource .w16 ms s
  return (s.record (.wait v)).undefFlags)

/-- `HMEM[k] <- v` (R386). -/
def State.setVar (s : State) (k v : Word) : State := { s with hmem := Store.put s.hmem k.toNat v }

/-- SETVAR (R386). -/
def setvarOp (index value : Source .w32) (s : State) : Out := finish (do
  let k ← readSource .w32 index s
  let v ← readSource .w32 value s
  return (s.setVar k v).undefFlags)

/-- `HMEM[k]`, or `HmemUnwritten` (R387). -/
def getVar (k : Word) (s : State) : Except Fault Word :=
  match Store.get s.hmem k.toNat with
  | some v => .ok v
  | none => .error .hmemUnwritten

/-- GETVAR (R387). -/
def getvarOp (a : RegIx) (index : Source .w32) (s : State) : Out := finish (do
  let k ← readSource .w32 index s
  let v ← getVar k s
  let t ← writeReg .w32 a v s
  return t.undefFlags)

/-- SMUL (R388): a zero source reports a runtime error and changes nothing else; the result for any other source is not in
the source, so it is refused. The destination is not accessed. -/
def smulOp (w : Width) (src : Source w) (s : State) : Out :=
  match readSource w src s with
  | .error f => .fault f
  | .ok x => if x = 0 then .next (s.record .runtimeErrorSmul) else .refused .semanticsNotInSource

/-- PLAY (R389): every PLAY encoding is refused (30_encoding.md R131). -/
def playOp (_s : State) : Out := .refused .unknownEncoding

/-- The graphics events (R390, R391): the event, the footprint of R392, the flags. -/
def State.graphics (s : State) (e : HostEvent) : State := (s.record e).dropFootprint.undefFlags

/-- VCL (R390). -/
def vclOp (b : Source .w8) (s : State) : Out := finish (do
  let v ← readSource .w8 b s
  return s.graphics (.manualClearBackBuffer v))

/-- VDL (R391). -/
def vdlOp (b : Source .w8) (s : State) : Out := finish (do
  let v ← readSource .w8 b s
  return s.graphics (.manualUpdateBackBuffer v))

/-- `INT_EFFECT` (R393), OPEN, with its safe default "relates σ to every state": the state INT's handler leaves is a free
value (log 14), from the number, the argument, the register index and the state it was given. -/
opaque intEffect : Byte → Byte → RegIx → State → State

/-- The first `n` entries of a list, filled up with `d`. -/
def fitList {α : Type} (n : Nat) (d : α) (l : List α) : List α := (List.range n).map (fun k => l.getD k d)

/-- The machine state of `t` in the canonical shape of a machine with `s`'s parameters (log 14); the model's own fields are
`s`'s. Every machine state of that shape is the adoption of itself. -/
def State.adopt (s t : State) : State where
  params := s.params
  banks := fitList s.params.numBanks (Bank.fresh false) t.banks
  bank := if t.bank < s.params.numBanks then t.bank else s.bank
  flag := t.flag
  flagUndef := t.flagUndef
  ipo := t.ipo
  spc := min t.spc s.params.callStackDepth
  cs := fitList s.params.callStackDepth 0 t.cs
  hmem := Store.normal hmemSize t.hmem
  running := t.running
  rng := t.rng
  mem := Store.normal memSize t.mem
  draws := s.draws + 1
  events := s.events

/-- The state after INT's handler returns: any state (R393). -/
def State.afterInterrupt (s : State) (n arg : Byte) (r : RegIx) : State :=
  (s.record (.interrupt n arg r)).adopt (intEffect n arg r s)

/-- INT (R393). -/
def intOp (r : RegIx) (n arg : Byte) (s : State) : Out := .next (s.afterInterrupt n arg r)

/-- BREAK (R394). -/
def breakOp (s : State) : Out := .next s.halt

/-! ## EX -/

/-- `EX.8` (46_misc_system.md R381). -/
def execEx8 (a b : RegIx) (s : State) : Out := exOp .w8 a b s

/-- `EX.16` (46_misc_system.md R381). -/
def execEx16 (a b : RegIx) (s : State) : Out := exOp .w16 a b s

/-- `EX.24` (46_misc_system.md R381). -/
def execEx24 (a b : RegIx) (s : State) : Out := exOp .w24 a b s

/-- `EX.32` (46_misc_system.md R381). -/
def execEx32 (a b : RegIx) (s : State) : Out := exOp .w32 a b s

/-! ## BANKSEL -/

/-- `BANKSEL.I` (46_misc_system.md R382). -/
def execBankselI (n : Byte) (s : State) : Out := bankselOp (.imm n) s

/-- `BANKSEL.R` (46_misc_system.md R382). -/
def execBankselR (r : RegIx) (s : State) : Out := bankselOp (.place (.reg r)) s

/-! ## RAND -/

/-- `RAND.8` (46_misc_system.md R383). -/
def execRand8 (a : RegIx) (s : State) : Out := randOp .w8 a s

/-- `RAND.16` (46_misc_system.md R383). -/
def execRand16 (a : RegIx) (s : State) : Out := randOp .w16 a s

/-- `RAND.24` (46_misc_system.md R383). -/
def execRand24 (a : RegIx) (s : State) : Out := randOp .w24 a s

/-- `RAND.32` (46_misc_system.md R383). -/
def execRand32 (a : RegIx) (s : State) : Out := randOp .w32 a s

/-- `RAND.SEEDI` (46_misc_system.md R384). -/
def execRandSeedI (seed : Word) (s : State) : Out := randSeedOp (.imm seed) s

/-- `RAND.SEEDR` (46_misc_system.md R384). -/
def execRandSeedR (a : RegIx) (s : State) : Out := randSeedOp (.place (.reg a)) s

/-! ## WAIT -/

/-- `WAIT.I` (46_misc_system.md R385). -/
def execWaitI (ms : BitVec 16) (s : State) : Out := waitOp (.imm ms) s

/-- `WAIT.R` (46_misc_system.md R385). -/
def execWaitR (r : RegIx) (s : State) : Out := waitOp (.place (.reg r)) s

/-! ## SETVAR -/

/-- `SETVAR.II` (46_misc_system.md R386). -/
def execSetvarII (index value : Word) (s : State) : Out := setvarOp (.imm index) (.imm value) s

/-- `SETVAR.RI` (46_misc_system.md R386). -/
def execSetvarRI (a : RegIx) (value : Word) (s : State) : Out := setvarOp (.place (.reg a)) (.imm value) s

/-- `SETVAR.IR` (46_misc_system.md R386). -/
def execSetvarIR (index : Word) (b : RegIx) (s : State) : Out := setvarOp (.imm index) (.place (.reg b)) s

/-- `SETVAR.RR` (46_misc_system.md R386). -/
def execSetvarRR (a b : RegIx) (s : State) : Out := setvarOp (.place (.reg a)) (.place (.reg b)) s

/-! ## GETVAR -/

/-- `GETVAR.I` (46_misc_system.md R387). -/
def execGetvarI (a : RegIx) (index : Word) (s : State) : Out := getvarOp a (.imm index) s

/-- `GETVAR.R` (46_misc_system.md R387). -/
def execGetvarR (a b : RegIx) (s : State) : Out := getvarOp a (.place (.reg b)) s

/-! ## SMUL -/

/-- `SMUL.RR.8` (46_misc_system.md R388). -/
def execSmulRR8 (_a b : RegIx) (s : State) : Out := smulOp .w8 (.place (.reg b)) s

/-- `SMUL.RR.16` (46_misc_system.md R388). -/
def execSmulRR16 (_a b : RegIx) (s : State) : Out := smulOp .w16 (.place (.reg b)) s

/-- `SMUL.RR.24` (46_misc_system.md R388). -/
def execSmulRR24 (_a b : RegIx) (s : State) : Out := smulOp .w24 (.place (.reg b)) s

/-- `SMUL.RR.32` (46_misc_system.md R388). -/
def execSmulRR32 (_a b : RegIx) (s : State) : Out := smulOp .w32 (.place (.reg b)) s

/-- `SMUL.RI.8` (46_misc_system.md R388). -/
def execSmulRI8 (_a : RegIx) (imm : BitVec 8) (s : State) : Out := smulOp .w8 (.imm imm) s

/-- `SMUL.RI.16` (46_misc_system.md R388). -/
def execSmulRI16 (_a : RegIx) (imm : BitVec 16) (s : State) : Out := smulOp .w16 (.imm imm) s

/-- `SMUL.RI.24` (46_misc_system.md R388). -/
def execSmulRI24 (_a : RegIx) (imm : BitVec 24) (s : State) : Out := smulOp .w24 (.imm imm) s

/-- `SMUL.RI.32` (46_misc_system.md R388). -/
def execSmulRI32 (_a : RegIx) (imm : BitVec 32) (s : State) : Out := smulOp .w32 (.imm imm) s

/-! ## PLAY -/

/-- `PLAY` (46_misc_system.md R389). -/
def execPlay (s : State) : Out := playOp s

/-! ## VCL -/

/-- `VCL.I` (46_misc_system.md R390). -/
def execVclI (n : Byte) (s : State) : Out := vclOp (.imm n) s

/-- `VCL.R` (46_misc_system.md R390). -/
def execVclR (r : RegIx) (s : State) : Out := vclOp (.place (.reg r)) s

/-! ## VDL -/

/-- `VDL.I` (46_misc_system.md R391). -/
def execVdlI (n : Byte) (s : State) : Out := vdlOp (.imm n) s

/-- `VDL.R` (46_misc_system.md R391). -/
def execVdlR (r : RegIx) (s : State) : Out := vdlOp (.place (.reg r)) s

/-! ## INT -/

/-- `INT` (46_misc_system.md R393). -/
def execInt (r : RegIx) (n arg : Byte) (s : State) : Out := intOp r n arg s

/-! ## BREAK -/

/-- `BREAK` (46_misc_system.md R394). -/
def execBrk (s : State) : Out := breakOp s

end Sys2Proof.Machine
end

