-- ==== Sys2Proof/Machine/ShiftBit.lean ====
section
/-! DEFINITION. Shifts, rotates and bit operations: SL, SR, RL, RR, SET, RES, BIT, GETBITS, SETBITS (42_shift_bit.md). -/

namespace Sys2Proof.Machine

/-- The common part of SL, SR, RL, RR, SET and RES (R240): the target and the amount are read, then the target is written
with what `f` gives, or with UNDEF where it gives none; every flag UNDEF. -/
def shiftBy (w : Width) (f : BitVec w.bits → Nat → Option (BitVec w.bits)) (a : RegIx) (n : Source .w8) (s : State) :
    Except Fault State := do
  let d ← readReg w a s
  let k ← readSource .w8 n s
  match f d k.toNat with
  | some v => return (s.setView w a v).undefFlags
  | none => return (s.setViewFree w a).undefFlags

/-- SL's value (R241): UNDEF for an amount of the width or more. -/
def shiftedLeft {n : Nat} (d : BitVec n) (k : Nat) : Option (BitVec n) := if k < n then some (d <<< k) else none

/-- SR's value (R242). -/
def shiftedRight {n : Nat} (d : BitVec n) (k : Nat) : Option (BitVec n) := if k < n then some (d >>> k) else none

/-- RL's value (R243): the amount modulo the width. -/
def rotatedLeft {n : Nat} (d : BitVec n) (k : Nat) : Option (BitVec n) :=
  some ((d <<< (k % n)) ||| (d >>> (n - k % n)))

/-- RR's value (R244): the amount modulo the width. -/
def rotatedRight {n : Nat} (d : BitVec n) (k : Nat) : Option (BitVec n) :=
  some ((d >>> (k % n)) ||| (d <<< (n - k % n)))

/-- SET's value (R245). -/
def withBitSet {n : Nat} (d : BitVec n) (k : Nat) : Option (BitVec n) := if k < n then some (d ||| (1#n <<< k)) else none

/-- RES's value (R246). -/
def withBitClear {n : Nat} (d : BitVec n) (k : Nat) : Option (BitVec n) := if k < n then some (d &&& ~~~(1#n <<< k)) else none

/-- SL (R241). -/
def slOp (w : Width) (a : RegIx) (n : Source .w8) (s : State) : Out := finish (shiftBy w shiftedLeft a n s)

/-- SR (R242). -/
def srOp (w : Width) (a : RegIx) (n : Source .w8) (s : State) : Out := finish (shiftBy w shiftedRight a n s)

/-- RL (R243). -/
def rlOp (w : Width) (a : RegIx) (n : Source .w8) (s : State) : Out := finish (shiftBy w rotatedLeft a n s)

/-- RR (R244). -/
def rrOp (w : Width) (a : RegIx) (n : Source .w8) (s : State) : Out := finish (shiftBy w rotatedRight a n s)

/-- SET (R245). -/
def setOp (w : Width) (a : RegIx) (n : Source .w8) (s : State) : Out := finish (shiftBy w withBitSet a n s)

/-- RES (R246). -/
def resOp (w : Width) (a : RegIx) (n : Source .w8) (s : State) : Out := finish (shiftBy w withBitClear a n s)

/-- The bit BIT tests (R247): UNDEF for a position of the width or more. -/
def testedBit {n : Nat} (d : BitVec n) (k : Nat) : Option Bool := if k < n then some (d.getLsbD k) else none

/-- BIT (R247): an UNDEF bit leaves its flag UNDEF with all the others. -/
def bitOp (w : Width) (a : RegIx) (n : Source .w8) (s : State) : Out := finish (do
  let d ← readReg w a s
  let k ← readSource .w8 n s
  match testedBit d k.toNat with
  | some t => return s.bitFlags t
  | none => return s.undefFlags)

/-- GETBITS (R249). -/
def getbitsOp (w : Width) (a b : RegIx) (off : Source .w8) (s : State) : Out := finish (do
  let base ← readReg .w24 b s
  let o ← readSource .w8 off s
  let v ← bitRead w base o s
  let t ← writeReg w a v s
  return t.undefFlags)

/-- SETBITS (R250). -/
def setbitsOp (w : Width) (a b : RegIx) (off : Source .w8) (s : State) : Out := finish (do
  let base ← readReg .w24 b s
  let o ← readSource .w8 off s
  let v ← readReg w a s
  let t ← bitWrite w base o v s
  return t.undefFlags)

/-! ## SL -/

/-- `SL.I.8` (42_shift_bit.md R241). -/
def execSlI8 (a : RegIx) (n : Byte) (s : State) : Out := slOp .w8 a (.imm n) s

/-- `SL.I.16` (42_shift_bit.md R241). -/
def execSlI16 (a : RegIx) (n : Byte) (s : State) : Out := slOp .w16 a (.imm n) s

/-- `SL.I.24` (42_shift_bit.md R241). -/
def execSlI24 (a : RegIx) (n : Byte) (s : State) : Out := slOp .w24 a (.imm n) s

/-- `SL.I.32` (42_shift_bit.md R241). -/
def execSlI32 (a : RegIx) (n : Byte) (s : State) : Out := slOp .w32 a (.imm n) s

/-- `SL.R.8` (42_shift_bit.md R241). -/
def execSlR8 (a b : RegIx) (s : State) : Out := slOp .w8 a (.place (.reg b)) s

/-- `SL.R.16` (42_shift_bit.md R241). -/
def execSlR16 (a b : RegIx) (s : State) : Out := slOp .w16 a (.place (.reg b)) s

/-- `SL.R.24` (42_shift_bit.md R241). -/
def execSlR24 (a b : RegIx) (s : State) : Out := slOp .w24 a (.place (.reg b)) s

/-- `SL.R.32` (42_shift_bit.md R241). -/
def execSlR32 (a b : RegIx) (s : State) : Out := slOp .w32 a (.place (.reg b)) s

/-! ## SR -/

/-- `SR.I.8` (42_shift_bit.md R242). -/
def execSrI8 (a : RegIx) (n : Byte) (s : State) : Out := srOp .w8 a (.imm n) s

/-- `SR.I.16` (42_shift_bit.md R242). -/
def execSrI16 (a : RegIx) (n : Byte) (s : State) : Out := srOp .w16 a (.imm n) s

/-- `SR.I.24` (42_shift_bit.md R242). -/
def execSrI24 (a : RegIx) (n : Byte) (s : State) : Out := srOp .w24 a (.imm n) s

/-- `SR.I.32` (42_shift_bit.md R242). -/
def execSrI32 (a : RegIx) (n : Byte) (s : State) : Out := srOp .w32 a (.imm n) s

/-- `SR.R.8` (42_shift_bit.md R242). -/
def execSrR8 (a b : RegIx) (s : State) : Out := srOp .w8 a (.place (.reg b)) s

/-- `SR.R.16` (42_shift_bit.md R242). -/
def execSrR16 (a b : RegIx) (s : State) : Out := srOp .w16 a (.place (.reg b)) s

/-- `SR.R.24` (42_shift_bit.md R242). -/
def execSrR24 (a b : RegIx) (s : State) : Out := srOp .w24 a (.place (.reg b)) s

/-- `SR.R.32` (42_shift_bit.md R242). -/
def execSrR32 (a b : RegIx) (s : State) : Out := srOp .w32 a (.place (.reg b)) s

/-! ## RL -/

/-- `RL.I.8` (42_shift_bit.md R243). -/
def execRlI8 (a : RegIx) (n : Byte) (s : State) : Out := rlOp .w8 a (.imm n) s

/-- `RL.I.16` (42_shift_bit.md R243). -/
def execRlI16 (a : RegIx) (n : Byte) (s : State) : Out := rlOp .w16 a (.imm n) s

/-- `RL.I.24` (42_shift_bit.md R243). -/
def execRlI24 (a : RegIx) (n : Byte) (s : State) : Out := rlOp .w24 a (.imm n) s

/-- `RL.I.32` (42_shift_bit.md R243). -/
def execRlI32 (a : RegIx) (n : Byte) (s : State) : Out := rlOp .w32 a (.imm n) s

/-- `RL.R.8` (42_shift_bit.md R243). -/
def execRlR8 (a b : RegIx) (s : State) : Out := rlOp .w8 a (.place (.reg b)) s

/-- `RL.R.16` (42_shift_bit.md R243). -/
def execRlR16 (a b : RegIx) (s : State) : Out := rlOp .w16 a (.place (.reg b)) s

/-- `RL.R.24` (42_shift_bit.md R243). -/
def execRlR24 (a b : RegIx) (s : State) : Out := rlOp .w24 a (.place (.reg b)) s

/-- `RL.R.32` (42_shift_bit.md R243). -/
def execRlR32 (a b : RegIx) (s : State) : Out := rlOp .w32 a (.place (.reg b)) s

/-! ## RR -/

/-- `RR.I.8` (42_shift_bit.md R244). -/
def execRrI8 (a : RegIx) (n : Byte) (s : State) : Out := rrOp .w8 a (.imm n) s

/-- `RR.I.16` (42_shift_bit.md R244). -/
def execRrI16 (a : RegIx) (n : Byte) (s : State) : Out := rrOp .w16 a (.imm n) s

/-- `RR.I.24` (42_shift_bit.md R244). -/
def execRrI24 (a : RegIx) (n : Byte) (s : State) : Out := rrOp .w24 a (.imm n) s

/-- `RR.I.32` (42_shift_bit.md R244). -/
def execRrI32 (a : RegIx) (n : Byte) (s : State) : Out := rrOp .w32 a (.imm n) s

/-- `RR.R.8` (42_shift_bit.md R244). -/
def execRrR8 (a b : RegIx) (s : State) : Out := rrOp .w8 a (.place (.reg b)) s

/-- `RR.R.16` (42_shift_bit.md R244). -/
def execRrR16 (a b : RegIx) (s : State) : Out := rrOp .w16 a (.place (.reg b)) s

/-- `RR.R.24` (42_shift_bit.md R244). -/
def execRrR24 (a b : RegIx) (s : State) : Out := rrOp .w24 a (.place (.reg b)) s

/-- `RR.R.32` (42_shift_bit.md R244). -/
def execRrR32 (a b : RegIx) (s : State) : Out := rrOp .w32 a (.place (.reg b)) s

/-! ## SET -/

/-- `SET.I.8` (42_shift_bit.md R245). -/
def execSetI8 (a : RegIx) (n : Byte) (s : State) : Out := setOp .w8 a (.imm n) s

/-- `SET.I.16` (42_shift_bit.md R245). -/
def execSetI16 (a : RegIx) (n : Byte) (s : State) : Out := setOp .w16 a (.imm n) s

/-- `SET.I.24` (42_shift_bit.md R245). -/
def execSetI24 (a : RegIx) (n : Byte) (s : State) : Out := setOp .w24 a (.imm n) s

/-- `SET.I.32` (42_shift_bit.md R245). -/
def execSetI32 (a : RegIx) (n : Byte) (s : State) : Out := setOp .w32 a (.imm n) s

/-- `SET.R.8` (42_shift_bit.md R245). -/
def execSetR8 (a b : RegIx) (s : State) : Out := setOp .w8 a (.place (.reg b)) s

/-- `SET.R.16` (42_shift_bit.md R245). -/
def execSetR16 (a b : RegIx) (s : State) : Out := setOp .w16 a (.place (.reg b)) s

/-- `SET.R.24` (42_shift_bit.md R245). -/
def execSetR24 (a b : RegIx) (s : State) : Out := setOp .w24 a (.place (.reg b)) s

/-- `SET.R.32` (42_shift_bit.md R245). -/
def execSetR32 (a b : RegIx) (s : State) : Out := setOp .w32 a (.place (.reg b)) s

/-! ## RES -/

/-- `RES.I.8` (42_shift_bit.md R246). -/
def execResI8 (a : RegIx) (n : Byte) (s : State) : Out := resOp .w8 a (.imm n) s

/-- `RES.I.16` (42_shift_bit.md R246). -/
def execResI16 (a : RegIx) (n : Byte) (s : State) : Out := resOp .w16 a (.imm n) s

/-- `RES.I.24` (42_shift_bit.md R246). -/
def execResI24 (a : RegIx) (n : Byte) (s : State) : Out := resOp .w24 a (.imm n) s

/-- `RES.I.32` (42_shift_bit.md R246). -/
def execResI32 (a : RegIx) (n : Byte) (s : State) : Out := resOp .w32 a (.imm n) s

/-- `RES.R.8` (42_shift_bit.md R246). -/
def execResR8 (a b : RegIx) (s : State) : Out := resOp .w8 a (.place (.reg b)) s

/-- `RES.R.16` (42_shift_bit.md R246). -/
def execResR16 (a b : RegIx) (s : State) : Out := resOp .w16 a (.place (.reg b)) s

/-- `RES.R.24` (42_shift_bit.md R246). -/
def execResR24 (a b : RegIx) (s : State) : Out := resOp .w24 a (.place (.reg b)) s

/-- `RES.R.32` (42_shift_bit.md R246). -/
def execResR32 (a b : RegIx) (s : State) : Out := resOp .w32 a (.place (.reg b)) s

/-! ## BIT -/

/-- `BIT.I.8` (42_shift_bit.md R247). -/
def execBitI8 (a : RegIx) (n : Byte) (s : State) : Out := bitOp .w8 a (.imm n) s

/-- `BIT.I.16` (42_shift_bit.md R247). -/
def execBitI16 (a : RegIx) (n : Byte) (s : State) : Out := bitOp .w16 a (.imm n) s

/-- `BIT.I.24` (42_shift_bit.md R247). -/
def execBitI24 (a : RegIx) (n : Byte) (s : State) : Out := bitOp .w24 a (.imm n) s

/-- `BIT.I.32` (42_shift_bit.md R247). -/
def execBitI32 (a : RegIx) (n : Byte) (s : State) : Out := bitOp .w32 a (.imm n) s

/-- `BIT.R.8` (42_shift_bit.md R247). -/
def execBitR8 (a b : RegIx) (s : State) : Out := bitOp .w8 a (.place (.reg b)) s

/-- `BIT.R.16` (42_shift_bit.md R247). -/
def execBitR16 (a b : RegIx) (s : State) : Out := bitOp .w16 a (.place (.reg b)) s

/-- `BIT.R.24` (42_shift_bit.md R247). -/
def execBitR24 (a b : RegIx) (s : State) : Out := bitOp .w24 a (.place (.reg b)) s

/-- `BIT.R.32` (42_shift_bit.md R247). -/
def execBitR32 (a b : RegIx) (s : State) : Out := bitOp .w32 a (.place (.reg b)) s

/-! ## GETBITS -/

/-- `GETBITS.I.8` (42_shift_bit.md R249). -/
def execGetbitsI8 (a b : RegIx) (n : Byte) (s : State) : Out := getbitsOp .w8 a b (.imm n) s

/-- `GETBITS.I.16` (42_shift_bit.md R249). -/
def execGetbitsI16 (a b : RegIx) (n : Byte) (s : State) : Out := getbitsOp .w16 a b (.imm n) s

/-- `GETBITS.I.24` (42_shift_bit.md R249). -/
def execGetbitsI24 (a b : RegIx) (n : Byte) (s : State) : Out := getbitsOp .w24 a b (.imm n) s

/-- `GETBITS.I.32` (42_shift_bit.md R249). -/
def execGetbitsI32 (a b : RegIx) (n : Byte) (s : State) : Out := getbitsOp .w32 a b (.imm n) s

/-- `GETBITS.R.8` (42_shift_bit.md R249). -/
def execGetbitsR8 (a b c : RegIx) (s : State) : Out := getbitsOp .w8 a b (.place (.reg c)) s

/-- `GETBITS.R.16` (42_shift_bit.md R249). -/
def execGetbitsR16 (a b c : RegIx) (s : State) : Out := getbitsOp .w16 a b (.place (.reg c)) s

/-- `GETBITS.R.24` (42_shift_bit.md R249). -/
def execGetbitsR24 (a b c : RegIx) (s : State) : Out := getbitsOp .w24 a b (.place (.reg c)) s

/-- `GETBITS.R.32` (42_shift_bit.md R249). -/
def execGetbitsR32 (a b c : RegIx) (s : State) : Out := getbitsOp .w32 a b (.place (.reg c)) s

/-! ## SETBITS -/

/-- `SETBITS.I.8` (42_shift_bit.md R250). -/
def execSetbitsI8 (a b : RegIx) (n : Byte) (s : State) : Out := setbitsOp .w8 a b (.imm n) s

/-- `SETBITS.I.16` (42_shift_bit.md R250). -/
def execSetbitsI16 (a b : RegIx) (n : Byte) (s : State) : Out := setbitsOp .w16 a b (.imm n) s

/-- `SETBITS.I.24` (42_shift_bit.md R250). -/
def execSetbitsI24 (a b : RegIx) (n : Byte) (s : State) : Out := setbitsOp .w24 a b (.imm n) s

/-- `SETBITS.I.32` (42_shift_bit.md R250). -/
def execSetbitsI32 (a b : RegIx) (n : Byte) (s : State) : Out := setbitsOp .w32 a b (.imm n) s

/-- `SETBITS.R.8` (42_shift_bit.md R250). -/
def execSetbitsR8 (a b c : RegIx) (s : State) : Out := setbitsOp .w8 a b (.place (.reg c)) s

/-- `SETBITS.R.16` (42_shift_bit.md R250). -/
def execSetbitsR16 (a b c : RegIx) (s : State) : Out := setbitsOp .w16 a b (.place (.reg c)) s

/-- `SETBITS.R.24` (42_shift_bit.md R250). -/
def execSetbitsR24 (a b c : RegIx) (s : State) : Out := setbitsOp .w24 a b (.place (.reg c)) s

/-- `SETBITS.R.32` (42_shift_bit.md R250). -/
def execSetbitsR32 (a b c : RegIx) (s : State) : Out := setbitsOp .w32 a b (.place (.reg c)) s

end Sys2Proof.Machine
end

