-- ==== Sys2Proof/Machine/Dispatch.lean ====
section
/-! DEFINITION. Dispatch: one arm per instruction, each one direct call of its meaning. -/

namespace Sys2Proof.Machine

def exec (i : Instr) (s : State) : Host.Outcome State Fault Refusal :=
  match i with
  | .andRR8 a b => Sys2Proof.Machine.execAndRR8 a b s
  | .andRR16 a b => Sys2Proof.Machine.execAndRR16 a b s
  | .andRR24 a b => Sys2Proof.Machine.execAndRR24 a b s
  | .andRR32 a b => Sys2Proof.Machine.execAndRR32 a b s
  | .andRI8 a imm => Sys2Proof.Machine.execAndRI8 a imm s
  | .andRI16 a imm => Sys2Proof.Machine.execAndRI16 a imm s
  | .andRI24 a imm => Sys2Proof.Machine.execAndRI24 a imm s
  | .andRI32 a imm => Sys2Proof.Machine.execAndRI32 a imm s
  | .andRMr8 a b => Sys2Proof.Machine.execAndRMr8 a b s
  | .andRMr16 a b => Sys2Proof.Machine.execAndRMr16 a b s
  | .andRMr24 a b => Sys2Proof.Machine.execAndRMr24 a b s
  | .andRMr32 a b => Sys2Proof.Machine.execAndRMr32 a b s
  | .andRMa8 a addr => Sys2Proof.Machine.execAndRMa8 a addr s
  | .andRMa16 a addr => Sys2Proof.Machine.execAndRMa16 a addr s
  | .andRMa24 a addr => Sys2Proof.Machine.execAndRMa24 a addr s
  | .andRMa32 a addr => Sys2Proof.Machine.execAndRMa32 a addr s
  | .andMrR8 a b => Sys2Proof.Machine.execAndMrR8 a b s
  | .andMrR16 a b => Sys2Proof.Machine.execAndMrR16 a b s
  | .andMrR24 a b => Sys2Proof.Machine.execAndMrR24 a b s
  | .andMrR32 a b => Sys2Proof.Machine.execAndMrR32 a b s
  | .andMaR8 addr a => Sys2Proof.Machine.execAndMaR8 addr a s
  | .andMaR16 addr a => Sys2Proof.Machine.execAndMaR16 addr a s
  | .andMaR24 addr a => Sys2Proof.Machine.execAndMaR24 addr a s
  | .andMaR32 addr a => Sys2Proof.Machine.execAndMaR32 addr a s
  | .andMrI8 a imm => Sys2Proof.Machine.execAndMrI8 a imm s
  | .andMrI16 a imm => Sys2Proof.Machine.execAndMrI16 a imm s
  | .andMrI24 a imm => Sys2Proof.Machine.execAndMrI24 a imm s
  | .andMrI32 a imm => Sys2Proof.Machine.execAndMrI32 a imm s
  | .andMaI8 addr imm => Sys2Proof.Machine.execAndMaI8 addr imm s
  | .andMaI16 addr imm => Sys2Proof.Machine.execAndMaI16 addr imm s
  | .andMaI24 addr imm => Sys2Proof.Machine.execAndMaI24 addr imm s
  | .andMaI32 addr imm => Sys2Proof.Machine.execAndMaI32 addr imm s
  | .orRR8 a b => Sys2Proof.Machine.execOrRR8 a b s
  | .orRR16 a b => Sys2Proof.Machine.execOrRR16 a b s
  | .orRR24 a b => Sys2Proof.Machine.execOrRR24 a b s
  | .orRR32 a b => Sys2Proof.Machine.execOrRR32 a b s
  | .orRI8 a imm => Sys2Proof.Machine.execOrRI8 a imm s
  | .orRI16 a imm => Sys2Proof.Machine.execOrRI16 a imm s
  | .orRI24 a imm => Sys2Proof.Machine.execOrRI24 a imm s
  | .orRI32 a imm => Sys2Proof.Machine.execOrRI32 a imm s
  | .orRMr8 a b => Sys2Proof.Machine.execOrRMr8 a b s
  | .orRMr16 a b => Sys2Proof.Machine.execOrRMr16 a b s
  | .orRMr24 a b => Sys2Proof.Machine.execOrRMr24 a b s
  | .orRMr32 a b => Sys2Proof.Machine.execOrRMr32 a b s
  | .orRMa8 a addr => Sys2Proof.Machine.execOrRMa8 a addr s
  | .orRMa16 a addr => Sys2Proof.Machine.execOrRMa16 a addr s
  | .orRMa24 a addr => Sys2Proof.Machine.execOrRMa24 a addr s
  | .orRMa32 a addr => Sys2Proof.Machine.execOrRMa32 a addr s
  | .orMrR8 a b => Sys2Proof.Machine.execOrMrR8 a b s
  | .orMrR16 a b => Sys2Proof.Machine.execOrMrR16 a b s
  | .orMrR24 a b => Sys2Proof.Machine.execOrMrR24 a b s
  | .orMrR32 a b => Sys2Proof.Machine.execOrMrR32 a b s
  | .orMaR8 addr a => Sys2Proof.Machine.execOrMaR8 addr a s
  | .orMaR16 addr a => Sys2Proof.Machine.execOrMaR16 addr a s
  | .orMaR24 addr a => Sys2Proof.Machine.execOrMaR24 addr a s
  | .orMaR32 addr a => Sys2Proof.Machine.execOrMaR32 addr a s
  | .orMrI8 a imm => Sys2Proof.Machine.execOrMrI8 a imm s
  | .orMrI16 a imm => Sys2Proof.Machine.execOrMrI16 a imm s
  | .orMrI24 a imm => Sys2Proof.Machine.execOrMrI24 a imm s
  | .orMrI32 a imm => Sys2Proof.Machine.execOrMrI32 a imm s
  | .orMaI8 addr imm => Sys2Proof.Machine.execOrMaI8 addr imm s
  | .orMaI16 addr imm => Sys2Proof.Machine.execOrMaI16 addr imm s
  | .orMaI24 addr imm => Sys2Proof.Machine.execOrMaI24 addr imm s
  | .orMaI32 addr imm => Sys2Proof.Machine.execOrMaI32 addr imm s
  | .xorRR8 a b => Sys2Proof.Machine.execXorRR8 a b s
  | .xorRR16 a b => Sys2Proof.Machine.execXorRR16 a b s
  | .xorRR24 a b => Sys2Proof.Machine.execXorRR24 a b s
  | .xorRR32 a b => Sys2Proof.Machine.execXorRR32 a b s
  | .xorRI8 a imm => Sys2Proof.Machine.execXorRI8 a imm s
  | .xorRI16 a imm => Sys2Proof.Machine.execXorRI16 a imm s
  | .xorRI24 a imm => Sys2Proof.Machine.execXorRI24 a imm s
  | .xorRI32 a imm => Sys2Proof.Machine.execXorRI32 a imm s
  | .xorRMr8 a b => Sys2Proof.Machine.execXorRMr8 a b s
  | .xorRMr16 a b => Sys2Proof.Machine.execXorRMr16 a b s
  | .xorRMr24 a b => Sys2Proof.Machine.execXorRMr24 a b s
  | .xorRMr32 a b => Sys2Proof.Machine.execXorRMr32 a b s
  | .xorRMa8 a addr => Sys2Proof.Machine.execXorRMa8 a addr s
  | .xorRMa16 a addr => Sys2Proof.Machine.execXorRMa16 a addr s
  | .xorRMa24 a addr => Sys2Proof.Machine.execXorRMa24 a addr s
  | .xorRMa32 a addr => Sys2Proof.Machine.execXorRMa32 a addr s
  | .xorMrR8 a b => Sys2Proof.Machine.execXorMrR8 a b s
  | .xorMrR16 a b => Sys2Proof.Machine.execXorMrR16 a b s
  | .xorMrR24 a b => Sys2Proof.Machine.execXorMrR24 a b s
  | .xorMrR32 a b => Sys2Proof.Machine.execXorMrR32 a b s
  | .xorMaR8 addr a => Sys2Proof.Machine.execXorMaR8 addr a s
  | .xorMaR16 addr a => Sys2Proof.Machine.execXorMaR16 addr a s
  | .xorMaR24 addr a => Sys2Proof.Machine.execXorMaR24 addr a s
  | .xorMaR32 addr a => Sys2Proof.Machine.execXorMaR32 addr a s
  | .xorMrI8 a imm => Sys2Proof.Machine.execXorMrI8 a imm s
  | .xorMrI16 a imm => Sys2Proof.Machine.execXorMrI16 a imm s
  | .xorMrI24 a imm => Sys2Proof.Machine.execXorMrI24 a imm s
  | .xorMrI32 a imm => Sys2Proof.Machine.execXorMrI32 a imm s
  | .xorMaI8 addr imm => Sys2Proof.Machine.execXorMaI8 addr imm s
  | .xorMaI16 addr imm => Sys2Proof.Machine.execXorMaI16 addr imm s
  | .xorMaI24 addr imm => Sys2Proof.Machine.execXorMaI24 addr imm s
  | .xorMaI32 addr imm => Sys2Proof.Machine.execXorMaI32 addr imm s
  | .norRR8 a b => Sys2Proof.Machine.execNorRR8 a b s
  | .norRR16 a b => Sys2Proof.Machine.execNorRR16 a b s
  | .norRR24 a b => Sys2Proof.Machine.execNorRR24 a b s
  | .norRR32 a b => Sys2Proof.Machine.execNorRR32 a b s
  | .norRI8 a imm => Sys2Proof.Machine.execNorRI8 a imm s
  | .norRI16 a imm => Sys2Proof.Machine.execNorRI16 a imm s
  | .norRI24 a imm => Sys2Proof.Machine.execNorRI24 a imm s
  | .norRI32 a imm => Sys2Proof.Machine.execNorRI32 a imm s
  | .norRMr8 a b => Sys2Proof.Machine.execNorRMr8 a b s
  | .norRMr16 a b => Sys2Proof.Machine.execNorRMr16 a b s
  | .norRMr24 a b => Sys2Proof.Machine.execNorRMr24 a b s
  | .norRMr32 a b => Sys2Proof.Machine.execNorRMr32 a b s
  | .norRMa8 a addr => Sys2Proof.Machine.execNorRMa8 a addr s
  | .norRMa16 a addr => Sys2Proof.Machine.execNorRMa16 a addr s
  | .norRMa24 a addr => Sys2Proof.Machine.execNorRMa24 a addr s
  | .norRMa32 a addr => Sys2Proof.Machine.execNorRMa32 a addr s
  | .norMrR8 a b => Sys2Proof.Machine.execNorMrR8 a b s
  | .norMrR16 a b => Sys2Proof.Machine.execNorMrR16 a b s
  | .norMrR24 a b => Sys2Proof.Machine.execNorMrR24 a b s
  | .norMrR32 a b => Sys2Proof.Machine.execNorMrR32 a b s
  | .norMaR8 addr a => Sys2Proof.Machine.execNorMaR8 addr a s
  | .norMaR16 addr a => Sys2Proof.Machine.execNorMaR16 addr a s
  | .norMaR24 addr a => Sys2Proof.Machine.execNorMaR24 addr a s
  | .norMaR32 addr a => Sys2Proof.Machine.execNorMaR32 addr a s
  | .norMrI8 a imm => Sys2Proof.Machine.execNorMrI8 a imm s
  | .norMrI16 a imm => Sys2Proof.Machine.execNorMrI16 a imm s
  | .norMrI24 a imm => Sys2Proof.Machine.execNorMrI24 a imm s
  | .norMrI32 a imm => Sys2Proof.Machine.execNorMrI32 a imm s
  | .norMaI8 addr imm => Sys2Proof.Machine.execNorMaI8 addr imm s
  | .norMaI16 addr imm => Sys2Proof.Machine.execNorMaI16 addr imm s
  | .norMaI24 addr imm => Sys2Proof.Machine.execNorMaI24 addr imm s
  | .norMaI32 addr imm => Sys2Proof.Machine.execNorMaI32 addr imm s
  | .minRR8 a b => Sys2Proof.Machine.execMinRR8 a b s
  | .minRR16 a b => Sys2Proof.Machine.execMinRR16 a b s
  | .minRR24 a b => Sys2Proof.Machine.execMinRR24 a b s
  | .minRR32 a b => Sys2Proof.Machine.execMinRR32 a b s
  | .minRI8 a imm => Sys2Proof.Machine.execMinRI8 a imm s
  | .minRI16 a imm => Sys2Proof.Machine.execMinRI16 a imm s
  | .minRI24 a imm => Sys2Proof.Machine.execMinRI24 a imm s
  | .minRI32 a imm => Sys2Proof.Machine.execMinRI32 a imm s
  | .minRMr8 a b => Sys2Proof.Machine.execMinRMr8 a b s
  | .minRMr16 a b => Sys2Proof.Machine.execMinRMr16 a b s
  | .minRMr24 a b => Sys2Proof.Machine.execMinRMr24 a b s
  | .minRMr32 a b => Sys2Proof.Machine.execMinRMr32 a b s
  | .minRMa8 a addr => Sys2Proof.Machine.execMinRMa8 a addr s
  | .minRMa16 a addr => Sys2Proof.Machine.execMinRMa16 a addr s
  | .minRMa24 a addr => Sys2Proof.Machine.execMinRMa24 a addr s
  | .minRMa32 a addr => Sys2Proof.Machine.execMinRMa32 a addr s
  | .minMrR8 a b => Sys2Proof.Machine.execMinMrR8 a b s
  | .minMrR16 a b => Sys2Proof.Machine.execMinMrR16 a b s
  | .minMrR24 a b => Sys2Proof.Machine.execMinMrR24 a b s
  | .minMrR32 a b => Sys2Proof.Machine.execMinMrR32 a b s
  | .minMaR8 addr a => Sys2Proof.Machine.execMinMaR8 addr a s
  | .minMaR16 addr a => Sys2Proof.Machine.execMinMaR16 addr a s
  | .minMaR24 addr a => Sys2Proof.Machine.execMinMaR24 addr a s
  | .minMaR32 addr a => Sys2Proof.Machine.execMinMaR32 addr a s
  | .minMrI8 a imm => Sys2Proof.Machine.execMinMrI8 a imm s
  | .minMrI16 a imm => Sys2Proof.Machine.execMinMrI16 a imm s
  | .minMrI24 a imm => Sys2Proof.Machine.execMinMrI24 a imm s
  | .minMrI32 a imm => Sys2Proof.Machine.execMinMrI32 a imm s
  | .minMaI8 addr imm => Sys2Proof.Machine.execMinMaI8 addr imm s
  | .minMaI16 addr imm => Sys2Proof.Machine.execMinMaI16 addr imm s
  | .minMaI24 addr imm => Sys2Proof.Machine.execMinMaI24 addr imm s
  | .minMaI32 addr imm => Sys2Proof.Machine.execMinMaI32 addr imm s
  | .minRF8 a fb => Sys2Proof.Machine.execMinRF8 a fb s
  | .minRF16 a fb => Sys2Proof.Machine.execMinRF16 a fb s
  | .minRF24 a fb => Sys2Proof.Machine.execMinRF24 a fb s
  | .minRF32 a fb => Sys2Proof.Machine.execMinRF32 a fb s
  | .minFF fa fb => Sys2Proof.Machine.execMinFF fa fb s
  | .maxRR8 a b => Sys2Proof.Machine.execMaxRR8 a b s
  | .maxRR16 a b => Sys2Proof.Machine.execMaxRR16 a b s
  | .maxRR24 a b => Sys2Proof.Machine.execMaxRR24 a b s
  | .maxRR32 a b => Sys2Proof.Machine.execMaxRR32 a b s
  | .maxRI8 a imm => Sys2Proof.Machine.execMaxRI8 a imm s
  | .maxRI16 a imm => Sys2Proof.Machine.execMaxRI16 a imm s
  | .maxRI24 a imm => Sys2Proof.Machine.execMaxRI24 a imm s
  | .maxRI32 a imm => Sys2Proof.Machine.execMaxRI32 a imm s
  | .maxRMr8 a b => Sys2Proof.Machine.execMaxRMr8 a b s
  | .maxRMr16 a b => Sys2Proof.Machine.execMaxRMr16 a b s
  | .maxRMr24 a b => Sys2Proof.Machine.execMaxRMr24 a b s
  | .maxRMr32 a b => Sys2Proof.Machine.execMaxRMr32 a b s
  | .maxRMa8 a addr => Sys2Proof.Machine.execMaxRMa8 a addr s
  | .maxRMa16 a addr => Sys2Proof.Machine.execMaxRMa16 a addr s
  | .maxRMa24 a addr => Sys2Proof.Machine.execMaxRMa24 a addr s
  | .maxRMa32 a addr => Sys2Proof.Machine.execMaxRMa32 a addr s
  | .maxMrR8 a b => Sys2Proof.Machine.execMaxMrR8 a b s
  | .maxMrR16 a b => Sys2Proof.Machine.execMaxMrR16 a b s
  | .maxMrR24 a b => Sys2Proof.Machine.execMaxMrR24 a b s
  | .maxMrR32 a b => Sys2Proof.Machine.execMaxMrR32 a b s
  | .maxMaR8 addr a => Sys2Proof.Machine.execMaxMaR8 addr a s
  | .maxMaR16 addr a => Sys2Proof.Machine.execMaxMaR16 addr a s
  | .maxMaR24 addr a => Sys2Proof.Machine.execMaxMaR24 addr a s
  | .maxMaR32 addr a => Sys2Proof.Machine.execMaxMaR32 addr a s
  | .maxMrI8 a imm => Sys2Proof.Machine.execMaxMrI8 a imm s
  | .maxMrI16 a imm => Sys2Proof.Machine.execMaxMrI16 a imm s
  | .maxMrI24 a imm => Sys2Proof.Machine.execMaxMrI24 a imm s
  | .maxMrI32 a imm => Sys2Proof.Machine.execMaxMrI32 a imm s
  | .maxMaI8 addr imm => Sys2Proof.Machine.execMaxMaI8 addr imm s
  | .maxMaI16 addr imm => Sys2Proof.Machine.execMaxMaI16 addr imm s
  | .maxMaI24 addr imm => Sys2Proof.Machine.execMaxMaI24 addr imm s
  | .maxMaI32 addr imm => Sys2Proof.Machine.execMaxMaI32 addr imm s
  | .maxRF8 a fb => Sys2Proof.Machine.execMaxRF8 a fb s
  | .maxRF16 a fb => Sys2Proof.Machine.execMaxRF16 a fb s
  | .maxRF24 a fb => Sys2Proof.Machine.execMaxRF24 a fb s
  | .maxRF32 a fb => Sys2Proof.Machine.execMaxRF32 a fb s
  | .maxFF fa fb => Sys2Proof.Machine.execMaxFF fa fb s
  | .incR8 a => Sys2Proof.Machine.execIncR8 a s
  | .incR16 a => Sys2Proof.Machine.execIncR16 a s
  | .incR24 a => Sys2Proof.Machine.execIncR24 a s
  | .incR32 a => Sys2Proof.Machine.execIncR32 a s
  | .incMr8 a => Sys2Proof.Machine.execIncMr8 a s
  | .incMr16 a => Sys2Proof.Machine.execIncMr16 a s
  | .incMr24 a => Sys2Proof.Machine.execIncMr24 a s
  | .incMr32 a => Sys2Proof.Machine.execIncMr32 a s
  | .incMa8 addr => Sys2Proof.Machine.execIncMa8 addr s
  | .incMa16 addr => Sys2Proof.Machine.execIncMa16 addr s
  | .incMa24 addr => Sys2Proof.Machine.execIncMa24 addr s
  | .incMa32 addr => Sys2Proof.Machine.execIncMa32 addr s
  | .decR8 a => Sys2Proof.Machine.execDecR8 a s
  | .decR16 a => Sys2Proof.Machine.execDecR16 a s
  | .decR24 a => Sys2Proof.Machine.execDecR24 a s
  | .decR32 a => Sys2Proof.Machine.execDecR32 a s
  | .decMr8 a => Sys2Proof.Machine.execDecMr8 a s
  | .decMr16 a => Sys2Proof.Machine.execDecMr16 a s
  | .decMr24 a => Sys2Proof.Machine.execDecMr24 a s
  | .decMr32 a => Sys2Proof.Machine.execDecMr32 a s
  | .decMa8 addr => Sys2Proof.Machine.execDecMa8 addr s
  | .decMa16 addr => Sys2Proof.Machine.execDecMa16 addr s
  | .decMa24 addr => Sys2Proof.Machine.execDecMa24 addr s
  | .decMa32 addr => Sys2Proof.Machine.execDecMa32 addr s
  | .invR8 a => Sys2Proof.Machine.execInvR8 a s
  | .invR16 a => Sys2Proof.Machine.execInvR16 a s
  | .invR24 a => Sys2Proof.Machine.execInvR24 a s
  | .invR32 a => Sys2Proof.Machine.execInvR32 a s
  | .slI8 a n => Sys2Proof.Machine.execSlI8 a n s
  | .slI16 a n => Sys2Proof.Machine.execSlI16 a n s
  | .slI24 a n => Sys2Proof.Machine.execSlI24 a n s
  | .slI32 a n => Sys2Proof.Machine.execSlI32 a n s
  | .slR8 a b => Sys2Proof.Machine.execSlR8 a b s
  | .slR16 a b => Sys2Proof.Machine.execSlR16 a b s
  | .slR24 a b => Sys2Proof.Machine.execSlR24 a b s
  | .slR32 a b => Sys2Proof.Machine.execSlR32 a b s
  | .srI8 a n => Sys2Proof.Machine.execSrI8 a n s
  | .srI16 a n => Sys2Proof.Machine.execSrI16 a n s
  | .srI24 a n => Sys2Proof.Machine.execSrI24 a n s
  | .srI32 a n => Sys2Proof.Machine.execSrI32 a n s
  | .srR8 a b => Sys2Proof.Machine.execSrR8 a b s
  | .srR16 a b => Sys2Proof.Machine.execSrR16 a b s
  | .srR24 a b => Sys2Proof.Machine.execSrR24 a b s
  | .srR32 a b => Sys2Proof.Machine.execSrR32 a b s
  | .rlI8 a n => Sys2Proof.Machine.execRlI8 a n s
  | .rlI16 a n => Sys2Proof.Machine.execRlI16 a n s
  | .rlI24 a n => Sys2Proof.Machine.execRlI24 a n s
  | .rlI32 a n => Sys2Proof.Machine.execRlI32 a n s
  | .rlR8 a b => Sys2Proof.Machine.execRlR8 a b s
  | .rlR16 a b => Sys2Proof.Machine.execRlR16 a b s
  | .rlR24 a b => Sys2Proof.Machine.execRlR24 a b s
  | .rlR32 a b => Sys2Proof.Machine.execRlR32 a b s
  | .rrI8 a n => Sys2Proof.Machine.execRrI8 a n s
  | .rrI16 a n => Sys2Proof.Machine.execRrI16 a n s
  | .rrI24 a n => Sys2Proof.Machine.execRrI24 a n s
  | .rrI32 a n => Sys2Proof.Machine.execRrI32 a n s
  | .rrR8 a b => Sys2Proof.Machine.execRrR8 a b s
  | .rrR16 a b => Sys2Proof.Machine.execRrR16 a b s
  | .rrR24 a b => Sys2Proof.Machine.execRrR24 a b s
  | .rrR32 a b => Sys2Proof.Machine.execRrR32 a b s
  | .setI8 a n => Sys2Proof.Machine.execSetI8 a n s
  | .setI16 a n => Sys2Proof.Machine.execSetI16 a n s
  | .setI24 a n => Sys2Proof.Machine.execSetI24 a n s
  | .setI32 a n => Sys2Proof.Machine.execSetI32 a n s
  | .setR8 a b => Sys2Proof.Machine.execSetR8 a b s
  | .setR16 a b => Sys2Proof.Machine.execSetR16 a b s
  | .setR24 a b => Sys2Proof.Machine.execSetR24 a b s
  | .setR32 a b => Sys2Proof.Machine.execSetR32 a b s
  | .resI8 a n => Sys2Proof.Machine.execResI8 a n s
  | .resI16 a n => Sys2Proof.Machine.execResI16 a n s
  | .resI24 a n => Sys2Proof.Machine.execResI24 a n s
  | .resI32 a n => Sys2Proof.Machine.execResI32 a n s
  | .resR8 a b => Sys2Proof.Machine.execResR8 a b s
  | .resR16 a b => Sys2Proof.Machine.execResR16 a b s
  | .resR24 a b => Sys2Proof.Machine.execResR24 a b s
  | .resR32 a b => Sys2Proof.Machine.execResR32 a b s
  | .bitI8 a n => Sys2Proof.Machine.execBitI8 a n s
  | .bitI16 a n => Sys2Proof.Machine.execBitI16 a n s
  | .bitI24 a n => Sys2Proof.Machine.execBitI24 a n s
  | .bitI32 a n => Sys2Proof.Machine.execBitI32 a n s
  | .bitR8 a b => Sys2Proof.Machine.execBitR8 a b s
  | .bitR16 a b => Sys2Proof.Machine.execBitR16 a b s
  | .bitR24 a b => Sys2Proof.Machine.execBitR24 a b s
  | .bitR32 a b => Sys2Proof.Machine.execBitR32 a b s
  | .getbitsI8 a b n => Sys2Proof.Machine.execGetbitsI8 a b n s
  | .getbitsI16 a b n => Sys2Proof.Machine.execGetbitsI16 a b n s
  | .getbitsI24 a b n => Sys2Proof.Machine.execGetbitsI24 a b n s
  | .getbitsI32 a b n => Sys2Proof.Machine.execGetbitsI32 a b n s
  | .getbitsR8 a b c => Sys2Proof.Machine.execGetbitsR8 a b c s
  | .getbitsR16 a b c => Sys2Proof.Machine.execGetbitsR16 a b c s
  | .getbitsR24 a b c => Sys2Proof.Machine.execGetbitsR24 a b c s
  | .getbitsR32 a b c => Sys2Proof.Machine.execGetbitsR32 a b c s
  | .setbitsI8 a b n => Sys2Proof.Machine.execSetbitsI8 a b n s
  | .setbitsI16 a b n => Sys2Proof.Machine.execSetbitsI16 a b n s
  | .setbitsI24 a b n => Sys2Proof.Machine.execSetbitsI24 a b n s
  | .setbitsI32 a b n => Sys2Proof.Machine.execSetbitsI32 a b n s
  | .setbitsR8 a b c => Sys2Proof.Machine.execSetbitsR8 a b c s
  | .setbitsR16 a b c => Sys2Proof.Machine.execSetbitsR16 a b c s
  | .setbitsR24 a b c => Sys2Proof.Machine.execSetbitsR24 a b c s
  | .setbitsR32 a b c => Sys2Proof.Machine.execSetbitsR32 a b c s
  | .jpImm addr => Sys2Proof.Machine.execJpImm addr s
  | .jpReg r => Sys2Proof.Machine.execJpReg r s
  | .jpCond flag addr => Sys2Proof.Machine.execJpCond flag addr s
  | .jrRel off => Sys2Proof.Machine.execJrRel off s
  | .callImm addr => Sys2Proof.Machine.execCallImm addr s
  | .callReg r => Sys2Proof.Machine.execCallReg r s
  | .callCond flag addr => Sys2Proof.Machine.execCallCond flag addr s
  | .callrRel off => Sys2Proof.Machine.execCallrRel off s
  | .ret => Sys2Proof.Machine.execRet s
  | .retif flag => Sys2Proof.Machine.execRetif flag s
  | .scpRR8 a b => Sys2Proof.Machine.execScpRR8 a b s
  | .scpRR16 a b => Sys2Proof.Machine.execScpRR16 a b s
  | .scpRR24 a b => Sys2Proof.Machine.execScpRR24 a b s
  | .scpRR32 a b => Sys2Proof.Machine.execScpRR32 a b s
  | .scpRI8 a imm => Sys2Proof.Machine.execScpRI8 a imm s
  | .scpRI16 a imm => Sys2Proof.Machine.execScpRI16 a imm s
  | .scpRI24 a imm => Sys2Proof.Machine.execScpRI24 a imm s
  | .scpRI32 a imm => Sys2Proof.Machine.execScpRI32 a imm s
  | .scpRMr8 a b => Sys2Proof.Machine.execScpRMr8 a b s
  | .scpRMr16 a b => Sys2Proof.Machine.execScpRMr16 a b s
  | .scpRMr24 a b => Sys2Proof.Machine.execScpRMr24 a b s
  | .scpRMr32 a b => Sys2Proof.Machine.execScpRMr32 a b s
  | .scpRMa8 a addr => Sys2Proof.Machine.execScpRMa8 a addr s
  | .scpRMa16 a addr => Sys2Proof.Machine.execScpRMa16 a addr s
  | .scpRMa24 a addr => Sys2Proof.Machine.execScpRMa24 a addr s
  | .scpRMa32 a addr => Sys2Proof.Machine.execScpRMa32 a addr s
  | .scpMrR8 a b => Sys2Proof.Machine.execScpMrR8 a b s
  | .scpMrR16 a b => Sys2Proof.Machine.execScpMrR16 a b s
  | .scpMrR24 a b => Sys2Proof.Machine.execScpMrR24 a b s
  | .scpMrR32 a b => Sys2Proof.Machine.execScpMrR32 a b s
  | .scpMaR8 addr a => Sys2Proof.Machine.execScpMaR8 addr a s
  | .scpMaR16 addr a => Sys2Proof.Machine.execScpMaR16 addr a s
  | .scpMaR24 addr a => Sys2Proof.Machine.execScpMaR24 addr a s
  | .scpMaR32 addr a => Sys2Proof.Machine.execScpMaR32 addr a s
  | .scpMrI8 a imm => Sys2Proof.Machine.execScpMrI8 a imm s
  | .scpMrI16 a imm => Sys2Proof.Machine.execScpMrI16 a imm s
  | .scpMrI24 a imm => Sys2Proof.Machine.execScpMrI24 a imm s
  | .scpMrI32 a imm => Sys2Proof.Machine.execScpMrI32 a imm s
  | .scpMaI8 addr imm => Sys2Proof.Machine.execScpMaI8 addr imm s
  | .scpMaI16 addr imm => Sys2Proof.Machine.execScpMaI16 addr imm s
  | .scpMaI24 addr imm => Sys2Proof.Machine.execScpMaI24 addr imm s
  | .scpMaI32 addr imm => Sys2Proof.Machine.execScpMaI32 addr imm s
  | .sqrFF fa fb => Sys2Proof.Machine.execSqrFF fa fb s
  | .sqrFR8 fb a => Sys2Proof.Machine.execSqrFR8 fb a s
  | .sqrFR16 fb a => Sys2Proof.Machine.execSqrFR16 fb a s
  | .sqrFR24 fb a => Sys2Proof.Machine.execSqrFR24 fb a s
  | .sqrFR32 fb a => Sys2Proof.Machine.execSqrFR32 fb a s
  | .sqrRF8 a fb => Sys2Proof.Machine.execSqrRF8 a fb s
  | .sqrRF16 a fb => Sys2Proof.Machine.execSqrRF16 a fb s
  | .sqrRF24 a fb => Sys2Proof.Machine.execSqrRF24 a fb s
  | .sqrRF32 a fb => Sys2Proof.Machine.execSqrRF32 a fb s
  | .sqrFMr fb a => Sys2Proof.Machine.execSqrFMr fb a s
  | .sqrMrF a fb => Sys2Proof.Machine.execSqrMrF a fb s
  | .sqrFMa fa addr => Sys2Proof.Machine.execSqrFMa fa addr s
  | .sqrMaF addr fa => Sys2Proof.Machine.execSqrMaF addr fa s
  | .cbrFF fa fb => Sys2Proof.Machine.execCbrFF fa fb s
  | .cbrFR8 fb a => Sys2Proof.Machine.execCbrFR8 fb a s
  | .cbrFR16 fb a => Sys2Proof.Machine.execCbrFR16 fb a s
  | .cbrFR24 fb a => Sys2Proof.Machine.execCbrFR24 fb a s
  | .cbrFR32 fb a => Sys2Proof.Machine.execCbrFR32 fb a s
  | .cbrRF8 a fb => Sys2Proof.Machine.execCbrRF8 a fb s
  | .cbrRF16 a fb => Sys2Proof.Machine.execCbrRF16 a fb s
  | .cbrRF24 a fb => Sys2Proof.Machine.execCbrRF24 a fb s
  | .cbrRF32 a fb => Sys2Proof.Machine.execCbrRF32 a fb s
  | .cbrFMr fb a => Sys2Proof.Machine.execCbrFMr fb a s
  | .cbrMrF a fb => Sys2Proof.Machine.execCbrMrF a fb s
  | .cbrFMa fa addr => Sys2Proof.Machine.execCbrFMa fa addr s
  | .cbrMaF addr fa => Sys2Proof.Machine.execCbrMaF addr fa s
  | .powFF fa fb => Sys2Proof.Machine.execPowFF fa fb s
  | .powFR8 fb a => Sys2Proof.Machine.execPowFR8 fb a s
  | .powFR16 fb a => Sys2Proof.Machine.execPowFR16 fb a s
  | .powFR24 fb a => Sys2Proof.Machine.execPowFR24 fb a s
  | .powFR32 fb a => Sys2Proof.Machine.execPowFR32 fb a s
  | .powRF8 a fb => Sys2Proof.Machine.execPowRF8 a fb s
  | .powRF16 a fb => Sys2Proof.Machine.execPowRF16 a fb s
  | .powRF24 a fb => Sys2Proof.Machine.execPowRF24 a fb s
  | .powRF32 a fb => Sys2Proof.Machine.execPowRF32 a fb s
  | .powFMr fb a => Sys2Proof.Machine.execPowFMr fb a s
  | .powMrF a fb => Sys2Proof.Machine.execPowMrF a fb s
  | .powFMa fa addr => Sys2Proof.Machine.execPowFMa fa addr s
  | .powMaF addr fa => Sys2Proof.Machine.execPowMaF addr fa s
  | .sinFF fa fb => Sys2Proof.Machine.execSinFF fa fb s
  | .sinFR8 fb a => Sys2Proof.Machine.execSinFR8 fb a s
  | .sinFR16 fb a => Sys2Proof.Machine.execSinFR16 fb a s
  | .sinFR24 fb a => Sys2Proof.Machine.execSinFR24 fb a s
  | .sinFR32 fb a => Sys2Proof.Machine.execSinFR32 fb a s
  | .sinRF8 a fb => Sys2Proof.Machine.execSinRF8 a fb s
  | .sinRF16 a fb => Sys2Proof.Machine.execSinRF16 a fb s
  | .sinRF24 a fb => Sys2Proof.Machine.execSinRF24 a fb s
  | .sinRF32 a fb => Sys2Proof.Machine.execSinRF32 a fb s
  | .sinFMr fb a => Sys2Proof.Machine.execSinFMr fb a s
  | .sinMrF a fb => Sys2Proof.Machine.execSinMrF a fb s
  | .sinFMa fa addr => Sys2Proof.Machine.execSinFMa fa addr s
  | .sinMaF addr fa => Sys2Proof.Machine.execSinMaF addr fa s
  | .floorFF fa fb => Sys2Proof.Machine.execFloorFF fa fb s
  | .floorFR8 fb a => Sys2Proof.Machine.execFloorFR8 fb a s
  | .floorFR16 fb a => Sys2Proof.Machine.execFloorFR16 fb a s
  | .floorFR24 fb a => Sys2Proof.Machine.execFloorFR24 fb a s
  | .floorFR32 fb a => Sys2Proof.Machine.execFloorFR32 fb a s
  | .floorRF8 a fb => Sys2Proof.Machine.execFloorRF8 a fb s
  | .floorRF16 a fb => Sys2Proof.Machine.execFloorRF16 a fb s
  | .floorRF24 a fb => Sys2Proof.Machine.execFloorRF24 a fb s
  | .floorRF32 a fb => Sys2Proof.Machine.execFloorRF32 a fb s
  | .floorFMr fb a => Sys2Proof.Machine.execFloorFMr fb a s
  | .floorMrF a fb => Sys2Proof.Machine.execFloorMrF a fb s
  | .floorFMa fa addr => Sys2Proof.Machine.execFloorFMa fa addr s
  | .floorMaF addr fa => Sys2Proof.Machine.execFloorMaF addr fa s
  | .roundFF fa fb => Sys2Proof.Machine.execRoundFF fa fb s
  | .roundFR8 fb a => Sys2Proof.Machine.execRoundFR8 fb a s
  | .roundFR16 fb a => Sys2Proof.Machine.execRoundFR16 fb a s
  | .roundFR24 fb a => Sys2Proof.Machine.execRoundFR24 fb a s
  | .roundFR32 fb a => Sys2Proof.Machine.execRoundFR32 fb a s
  | .roundRF8 a fb => Sys2Proof.Machine.execRoundRF8 a fb s
  | .roundRF16 a fb => Sys2Proof.Machine.execRoundRF16 a fb s
  | .roundRF24 a fb => Sys2Proof.Machine.execRoundRF24 a fb s
  | .roundRF32 a fb => Sys2Proof.Machine.execRoundRF32 a fb s
  | .roundFMr fb a => Sys2Proof.Machine.execRoundFMr fb a s
  | .roundMrF a fb => Sys2Proof.Machine.execRoundMrF a fb s
  | .roundFMa fa addr => Sys2Proof.Machine.execRoundFMa fa addr s
  | .roundMaF addr fa => Sys2Proof.Machine.execRoundMaF addr fa s
  | .memcRRR a b c => Sys2Proof.Machine.execMemcRRR a b c s
  | .memcRRI a b len => Sys2Proof.Machine.execMemcRRI a b len s
  | .memcRIR a dst c => Sys2Proof.Machine.execMemcRIR a dst c s
  | .memcRII a dst len => Sys2Proof.Machine.execMemcRII a dst len s
  | .memcIRR src b c => Sys2Proof.Machine.execMemcIRR src b c s
  | .memcIRI src b len => Sys2Proof.Machine.execMemcIRI src b len s
  | .memcIIR src dst c => Sys2Proof.Machine.execMemcIIR src dst c s
  | .memcIII src dst len => Sys2Proof.Machine.execMemcIII src dst len s
  | .memfRRR a b c => Sys2Proof.Machine.execMemfRRR a b c s
  | .memfRRI a b len => Sys2Proof.Machine.execMemfRRI a b len s
  | .memfRIR a addr c => Sys2Proof.Machine.execMemfRIR a addr c s
  | .memfRII a addr len => Sys2Proof.Machine.execMemfRII a addr len s
  | .memfIRR val b c => Sys2Proof.Machine.execMemfIRR val b c s
  | .memfIRI val b len => Sys2Proof.Machine.execMemfIRI val b len s
  | .memfIIR val addr c => Sys2Proof.Machine.execMemfIIR val addr c s
  | .memfIII val addr len => Sys2Proof.Machine.execMemfIII val addr len s
  | .findBI a n => Sys2Proof.Machine.execFindBI a n s
  | .findBR a b => Sys2Proof.Machine.execFindBR a b s
  | .findPA a addr => Sys2Proof.Machine.execFindPA a addr s
  | .findPR a b => Sys2Proof.Machine.execFindPR a b s
  | .ldregsMa a b addr => Sys2Proof.Machine.execLdregsMa a b addr s
  | .ldregsMr a b c => Sys2Proof.Machine.execLdregsMr a b c s
  | .stregsMa a b addr => Sys2Proof.Machine.execStregsMa a b addr s
  | .stregsMr a b c => Sys2Proof.Machine.execStregsMr a b c s
  | .ex8 a b => Sys2Proof.Machine.execEx8 a b s
  | .ex16 a b => Sys2Proof.Machine.execEx16 a b s
  | .ex24 a b => Sys2Proof.Machine.execEx24 a b s
  | .ex32 a b => Sys2Proof.Machine.execEx32 a b s
  | .bankselI n => Sys2Proof.Machine.execBankselI n s
  | .bankselR r => Sys2Proof.Machine.execBankselR r s
  | .rand8 a => Sys2Proof.Machine.execRand8 a s
  | .rand16 a => Sys2Proof.Machine.execRand16 a s
  | .rand24 a => Sys2Proof.Machine.execRand24 a s
  | .rand32 a => Sys2Proof.Machine.execRand32 a s
  | .randSeedI seed => Sys2Proof.Machine.execRandSeedI seed s
  | .randSeedR a => Sys2Proof.Machine.execRandSeedR a s
  | .waitI ms => Sys2Proof.Machine.execWaitI ms s
  | .waitR r => Sys2Proof.Machine.execWaitR r s
  | .setvarII index value => Sys2Proof.Machine.execSetvarII index value s
  | .setvarRI a value => Sys2Proof.Machine.execSetvarRI a value s
  | .setvarIR index b => Sys2Proof.Machine.execSetvarIR index b s
  | .setvarRR a b => Sys2Proof.Machine.execSetvarRR a b s
  | .getvarI a index => Sys2Proof.Machine.execGetvarI a index s
  | .getvarR a b => Sys2Proof.Machine.execGetvarR a b s
  | .smulRR8 a b => Sys2Proof.Machine.execSmulRR8 a b s
  | .smulRR16 a b => Sys2Proof.Machine.execSmulRR16 a b s
  | .smulRR24 a b => Sys2Proof.Machine.execSmulRR24 a b s
  | .smulRR32 a b => Sys2Proof.Machine.execSmulRR32 a b s
  | .smulRI8 a imm => Sys2Proof.Machine.execSmulRI8 a imm s
  | .smulRI16 a imm => Sys2Proof.Machine.execSmulRI16 a imm s
  | .smulRI24 a imm => Sys2Proof.Machine.execSmulRI24 a imm s
  | .smulRI32 a imm => Sys2Proof.Machine.execSmulRI32 a imm s
  | .play => Sys2Proof.Machine.execPlay s
  | .vclI n => Sys2Proof.Machine.execVclI n s
  | .vclR r => Sys2Proof.Machine.execVclR r s
  | .vdlI n => Sys2Proof.Machine.execVdlI n s
  | .vdlR r => Sys2Proof.Machine.execVdlR r s
  | .int r n arg => Sys2Proof.Machine.execInt r n arg s
  | .brk => Sys2Proof.Machine.execBrk s

end Sys2Proof.Machine
end

