-- ==== Sys2Proof/Machine/Fetch.lean ====
section
/-! DEFINITION. The fetch unit (20_memory.md R90 to R92). An instruction's bytes are all fetched before anything but `IPO`
changes (40_dispatch.md R161), so a step fetches a window of bytes and decodes it; the fetch that stopped the window is the
fault, if the instruction needs a byte beyond it. -/

namespace Sys2Proof.Machine

/-- One byte of the instruction stream (R90), or the fault of its fetch (R91, R81). -/
def fetchByte (m : List Host.Cell) (ip : Word) : Except Fault Byte :=
  if ip.toNat < memSize then
    match Store.get m ip.toNat with
    | some b => .ok b
    | none => .error .readUndefined
  else .error .fetchOutOfRange

/-- Up to `n` bytes from `ip` on, `IPO` counting modulo 2^32 (R90), and the fault of the first byte that cannot be fetched.
The fault of a window that is full is never used: no instruction is longer (30_encoding.md R110). -/
def fetchWindow (m : List Host.Cell) : Nat → Word → List Byte × Fault
  | 0, _ => ([], .fetchOutOfRange)
  | n + 1, ip =>
    match fetchByte m ip with
    | .error f => ([], f)
    | .ok b => (b :: (fetchWindow m n (ip + 1)).1, (fetchWindow m n (ip + 1)).2)

/-- The window at `IPO`. -/
def State.window (s : State) : List Byte × Fault := fetchWindow s.mem maxLength s.ipo

/-- `IPO` past the `n` bytes consumed (40_dispatch.md R166). -/
def State.advance (s : State) (n : Nat) : State := { s with ipo := s.ipo + BitVec.ofNat 32 n }

end Sys2Proof.Machine
end

