-- ==== Sys2Proof/Machine/Step.lean ====
section
/-! DEFINITION. The step (40_dispatch.md R160 to R166). -/

namespace Sys2Proof.Machine

/-- One step. A halted machine's state is final (R160): the step leaves it as it is (log 15). Otherwise the bytes at `IPO`
are decoded with the machine's tables: an instruction runs with `IPO` past it; a decode miss only moves `IPO` (R163); an
unclassified byte is refused (R164); a byte that cannot be fetched faults (20_memory.md R91). -/
noncomputable def step (s : State) : Host.Outcome State Fault Refusal :=
  if s.running then
    match decodeWith s.params.encoding s.window.1 with
    | .instr i n => exec i (s.advance n)
    | .miss n => .next (s.advance n)
    | .unknown => .refused .unknownEncoding
    | .short => .fault s.window.2
  else .next s

/-- What a model fault is recorded with (40_dispatch.md R165): the reason, and `start`, the IPO of the state the step was
applied to. -/
noncomputable def faultRecord (s : State) : Option (Fault × Word) :=
  match step s with
  | .fault f => some (f, s.ipo)
  | _ => none

/-- The state with an instruction's bytes (the low `nbits` bits of `w`, later bits 0) in memory at `IPO`, where the next step
fetches: what the loader does with a program (70_reset_and_hazards.md R451; log 7). -/
def State.withFetchWord (s : State) (nbits w : Nat) : State :=
  { s with mem := putBytes s.mem s.ipo.toNat ((tableBytes maxLength (w % 2 ^ nbits)).take (memSize - s.ipo.toNat)) }

end Sys2Proof.Machine
end

