-- ==== Sys2Proof/Safety.lean ====
section
/-! DEFINITION. What a good state is (`State.Inv`), and the words the statements are written in: what an instruction may
change (`Unchanged`), what a write to a register, a float register or memory leaves, what an UNDEF result is. -/

namespace Sys2Proof.Machine

/-- The invariant of the machine: the memory and the high-memory store are canonical (20_memory.md R80, 10_state.md R48);
there are `NUM_BANKS` banks and `BANK` is one of them (R37, R38); the call stack has `CALL_STACK_DEPTH` entries and `SPC`
counts at most that many (R45, R47). -/
structure State.Inv (s : State) : Prop where
  memory : Memory.wf s.mem
  highMemory : Store.Wf hmemSize s.hmem
  bankCount : s.banks.length = s.params.numBanks
  bankExists : s.bank < s.params.numBanks
  stackSize : s.cs.length = s.params.callStackDepth
  stackDepth : s.spc ≤ s.params.callStackDepth

/-! ## What stays as it was -/

/-- The pieces of state an instruction may change, the model's own counter of free values left out. -/
inductive Field where
  | banks | bank | flag | ipo | spc | cs | hmem | running | rng | mem | events
deriving DecidableEq, Repr

/-- One piece of state is the same in two states. -/
def Field.Same (f : Field) (s t : State) : Prop :=
  match f with
  | .banks => t.banks = s.banks
  | .bank => t.bank = s.bank
  | .flag => t.flag = s.flag ∧ t.flagUndef = s.flagUndef
  | .ipo => t.ipo = s.ipo
  | .spc => t.spc = s.spc
  | .cs => t.cs = s.cs
  | .hmem => t.hmem = s.hmem
  | .running => t.running = s.running
  | .rng => t.rng = s.rng
  | .mem => t.mem = s.mem
  | .events => t.events = s.events

/-- Between two states the parameters are the same and so is every piece of state not listed. -/
def Unchanged (changed : List Field) (s t : State) : Prop :=
  t.params = s.params ∧ ∀ f : Field, f ∉ changed → f.Same s t

/-! ## UNDEF values -/

/-- The word is a free value drawn between two states: what the model writes where the spec says UNDEF or `draw`. -/
def Drawn (v : Word) (s t : State) : Prop := ∃ n, s.draws ≤ n ∧ n < t.draws ∧ v = Config.freeWord n

/-- Every flag has become UNDEF (10_state.md R42): marked so, the content of the word a free value. -/
def FlagsUndef (s t : State) : Prop := Drawn t.flag s t ∧ ∀ n, t.flagBitUndef n = true

/-- Flag `n` has become `b`, every other flag UNDEF. -/
def FlagsUndefBut (n : FlagIx) (b : Bool) (s t : State) : Prop :=
  t.flagBit n = b ∧ t.flagBitUndef n = false ∧
    ∃ v, Drawn v s t ∧ ∀ m : FlagIx, m ≠ n → t.flagBit m = v.getLsbD m.toNat ∧ t.flagBitUndef m = true

/-! ## Registers -/

/-- Register `i` exists (10_state.md R32). -/
abbrev State.HasReg (s : State) (i : RegIx) : Prop := i.toNat < s.params.numIntRegs

/-- The active bank exists, and a `W`-bit view does not wrap onto itself: under `ByteOverlap` there are at least `W/8` cells
(10_state.md R33). Otherwise a value written cannot be read back. -/
def State.Fits (s : State) (w : Width) : Prop :=
  s.bank < s.banks.length ∧ (s.params.regLayout = .byteOverlap → w.bytes ≤ s.params.numIntRegs)

/-- Two views share no storage (10_state.md R33). -/
def Apart (p : Params) (w : Width) (i : RegIx) (w' : Width) (j : RegIx) : Prop :=
  match p.regLayout with
  | .byteOverlap => ∀ k < w.bytes, ∀ l < w'.bytes, (i.toNat + k) % p.numIntRegs ≠ (j.toNat + l) % p.numIntRegs
  | .cell32 => i ≠ j

/-- Every bank but the active one is as it was. -/
def OtherBanksSame (s t : State) : Prop :=
  t.banks.length = s.banks.length ∧ ∀ k, k ≠ s.bank → t.banks[k]? = s.banks[k]?

/-- `xW[i]` was given the bits `v`, defined or UNDEF as `undef` says, and no other register changed (10_state.md R34). -/
structure RegBecomes (undef : Bool) (w : Width) (i : RegIx) (v : BitVec w.bits) (s t : State) : Prop where
  /-- The bits are read back. -/
  value : s.Fits w → t.view w i = v
  /-- A view that was given a value is defined. -/
  defined : s.bank < s.banks.length → undef = false → t.viewUndef w i = false
  /-- Every view that shares a byte or bit with one that was given UNDEF is UNDEF. -/
  undefined : s.bank < s.banks.length → undef = true → ∀ w' j, ¬ Apart s.params w i w' j → t.viewUndef w' j = true
  /-- Under `Cell32` the bits above become UNDEF. -/
  above : s.bank < s.banks.length → s.params.regLayout = .cell32 → ∀ w', w.bits < w'.bits → t.viewUndef w' i = true
  /-- Every view that shares no storage with it is as it was. -/
  apart : ∀ w' j, Apart s.params w i w' j → t.view w' j = s.view w' j ∧ t.viewUndef w' j = s.viewUndef w' j
  /-- Every float register is as it was. -/
  floats : ∀ j, t.float j = s.float j ∧ t.floatUndef j = s.floatUndef j
  /-- Every other bank is as it was. -/
  others : OtherBanksSame s t

/-- `xW[i] <- v` happened and no other register changed. -/
abbrev RegWritten : (w : Width) → RegIx → BitVec w.bits → State → State → Prop := RegBecomes false

/-- `xW[i] <- UNDEF` happened and no other register changed: every byte or bit is marked UNDEF, its content a free value. -/
def RegUndef (w : Width) (i : RegIx) (s t : State) : Prop :=
  ∃ v, Drawn v s t ∧ RegBecomes true w i (v.setWidth w.bits) s t

/-- `f[j] <- p` happened and no other register changed (10_state.md R39). -/
structure FloatWritten (j : FloatIx) (p : Word) (s t : State) : Prop where
  /-- The pattern is read back. -/
  value : s.bank < s.banks.length → t.float j = p ∧ t.floatUndef j = false
  /-- Every other float register is as it was. -/
  apart : ∀ k, k ≠ j → t.float k = s.float k ∧ t.floatUndef k = s.floatUndef k
  /-- Every integer register view is as it was. -/
  views : ∀ w i, t.view w i = s.view w i ∧ t.viewUndef w i = s.viewUndef w i
  /-- Every other bank is as it was. -/
  others : OtherBanksSame s t

/-! ## Memory -/

/-- `M[a+k] <- v[8n-1-8k : 8n-8-8k]` for every byte `k` of the `n` bytes of `v` (20_memory.md R84), and no other byte
changed. -/
def MemWritten (w : Width) (a : Nat) (v : BitVec w.bits) (s t : State) : Prop :=
  (∀ k < w.bytes, t.byte? (a + k) = some (v.extractLsb' (w.bits - 8 - 8 * k) 8)) ∧
    ∀ q, (q < a ∨ a + w.bytes ≤ q) → t.byte? q = s.byte? q

/-- A destination was written with `v`: the register, or the bytes at the effective address `EA` (40_dispatch.md R168), and
no other register or byte. -/
def Place.Wrote (w : Width) (p : Place) (v : BitVec w.bits) (s t : State) : Prop :=
  match p with
  | .reg x => RegWritten w x v s t ∧ t.mem = s.mem
  | .mem m => (∀ a, m.address s = .ok a → MemWritten w a.toNat v s t) ∧ t.banks = s.banks

/-- The range check of 44_float.md R323: a finite result that truncates to `n`, `0 <= n <= 2^W - 1`. -/
def FitsUnsigned (w : Width) (r : Word) (n : Nat) : Prop :=
  isFinite r = true ∧ n = floatMag r / 2 ^ 149 ∧ (r.msb = true → n = 0) ∧ n < 2 ^ w.bits

/-- A float destination that can take the result `r`: an integer register that exists, where the result fits (where it does
not, the register is not accessed); four bytes that lie in memory. -/
def FloatPlace.Writable (p : FloatPlace) (r : Word) (s : State) : Prop :=
  match p with
  | .freg _ => True
  | .ireg w x => (∃ n, FitsUnsigned w r n) → s.HasReg x
  | .mem m => ∃ a, m.address s = .ok a ∧ a.toNat + 4 ≤ memSize

/-- A float result went to its destination (44_float.md R321, R323), and no other register or byte changed. -/
def FloatPlace.Wrote (p : FloatPlace) (r : Word) (s t : State) : Prop :=
  match p with
  | .freg j => FloatWritten j r s t ∧ t.mem = s.mem ∧ FlagsUndef s t
  | .ireg w x => t.mem = s.mem ∧
    (∀ n, FitsUnsigned w r n →
      RegWritten w x (BitVec.ofNat w.bits n) s t ∧ FlagsUndefBut s.params.ovfBit.index false s t) ∧
    ((¬ ∃ n, FitsUnsigned w r n) → t.banks = s.banks ∧ FlagsUndefBut s.params.ovfBit.index true s t)
  | .mem m => (∀ a, m.address s = .ok a → MemWritten .w32 a.toNat r s t) ∧ t.banks = s.banks ∧ FlagsUndef s t

/-! ## Bit fields, blocks, returns -/

/-- The byte with bit position `g` is defined and its bit at that position is `b` (42_shift_bit.md R248). -/
def FieldBit (s : State) (g : Nat) (b : Bool) : Prop :=
  ∃ v, s.byte? (g / 8) = some v ∧
    b = v.getLsbD (match s.params.bitviewOrder with | .msbFirst => 7 - g % 8 | .lsbFirst => g % 8)

/-- Which bit of a `W`-bit value the `j`-th bit of a field is (42_shift_bit.md R248). -/
def valueBit (s : State) (w : Width) (j : Nat) : Nat :=
  match s.params.bitviewOrder with | .msbFirst => w.bits - 1 - j | .lsbFirst => j

/-- The field of `W` bits at bit offset `off` from `a` holds `v` (42_shift_bit.md R248). -/
def FieldHolds (s : State) (w : Width) (a off : Nat) (v : BitVec w.bits) : Prop :=
  ∀ j < w.bits, FieldBit s (8 * a + off + j) (v.getLsbD (valueBit s w j))

/-- The first and the last byte a field touches (42_shift_bit.md R248). -/
abbrev firstByte (a off : Nat) : Nat := (8 * a + off) / 8
abbrev lastByte (w : Width) (a off : Nat) : Nat := (8 * a + off + w.bits - 1) / 8

/-- Every byte a field touches is defined. -/
def FieldDefined (s : State) (w : Width) (a off : Nat) : Prop :=
  ∀ q, firstByte a off ≤ q → q ≤ lastByte w a off → (s.byte? q).isSome

/-- Every bit of the byte at `q` is a bit of the field. -/
abbrev FieldCovers (w : Width) (a off q : Nat) : Prop := 8 * a + off ≤ 8 * q ∧ 8 * q + 8 ≤ 8 * a + off + w.bits

/-- Every byte a field touches is defined or, when the field is written, becomes so: it is fully covered. -/
def FieldDetermined (s : State) (w : Width) (a off : Nat) : Prop :=
  ∀ q, firstByte a off ≤ q → q ≤ lastByte w a off → (s.byte? q).isSome ∨ FieldCovers w a off q

/-- A field was written with `v` (42_shift_bit.md R248): in every byte that was defined or is fully covered, each bit of the
field is the matching bit of `v`; a byte that was UNDEF and is not fully covered is UNDEF; every bit of a defined byte outside
the field and every byte the field does not touch is as it was. -/
def FieldWritten (w : Width) (a off : Nat) (v : BitVec w.bits) (s t : State) : Prop :=
  (∀ j < w.bits, (s.byte? ((8 * a + off + j) / 8)).isSome ∨ FieldCovers w a off ((8 * a + off + j) / 8) →
    FieldBit t (8 * a + off + j) (v.getLsbD (valueBit s w j))) ∧
  (∀ q, s.byte? q = none → ¬ FieldCovers w a off q → t.byte? q = none) ∧
  (∀ g, (g < 8 * a + off ∨ 8 * a + off + w.bits ≤ g) → ∀ b, FieldBit s g b → FieldBit t g b) ∧
  ∀ q, (q < firstByte a off ∨ lastByte w a off < q) → t.byte? q = s.byte? q

/-- `n` bytes at `a` lie in memory (45_bulk_memory.md R350). -/
def BlockFits (a n : Nat) : Prop := n = 0 ∨ a + n ≤ memSize

/-- A run of bytes stands at `a`. -/
def BytesAt (s : State) (a : Nat) (bs : List Byte) : Prop := ∀ k (h : k < bs.length), s.byte? (a + k) = some bs[k]

/-- The bytes at `a` differ from a pattern, and every byte up to the first difference is defined. -/
def DiffersAt (s : State) (a : Nat) (pat : List Byte) : Prop :=
  ∃ j, ∃ h : j < pat.length, BytesAt s a (pat.take j) ∧ ∃ c, s.byte? (a + j) = some c ∧ c ≠ pat[j]

/-- The bytes at `a` agree with a pattern up to one that is UNDEF. -/
def UndefinedAt (s : State) (a : Nat) (pat : List Byte) : Prop :=
  ∃ j < pat.length, BytesAt s a (pat.take j) ∧ s.byte? (a + j) = none

/-- A return happened: with entries on the call stack, the top one is popped into `IPO`; with none, the machine halts and
`IPO` is a draw (43_control_compare.md R289, R291). -/
def Returned (s t : State) : Prop :=
  (0 < s.spc → t.spc = s.spc - 1 ∧ s.cs[s.spc - 1]? = some t.ipo ∧ Unchanged [.spc, .ipo] s t) ∧
  (s.spc = 0 → t.running = false ∧ Drawn t.ipo s t ∧ Unchanged [.running, .ipo] s t)

end Sys2Proof.Machine
end

