-- ==== Sys2Proof/Certificates/Slice0/Obligations.lean ====
section
/-! DEFINITION. The statements about the model. First the form tables: which constructors have which operand shapes
(30_encoding.md R120 to R128), each constructor named; then the statements, `Obligations.<Name>`. -/

namespace Sys2Proof.Certificates

open Sys2Proof.Machine

/-! ## Form tables -/

/-- A property of an operand pair at a width, for the 32 binary shapes of 30_encoding.md R120 of one family. -/
def BinaryForms (P : (w : Width) → Place → Source w → Instr → Prop)
    (rr8 rr16 rr24 rr32 rmr8 rmr16 rmr24 rmr32 mrr8 mrr16 mrr24 mrr32 : RegIx → RegIx → Instr)
    (rma8 rma16 rma24 rma32 : RegIx → Addr → Instr) (mar8 mar16 mar24 mar32 : Addr → RegIx → Instr)
    (ri8 mri8 : RegIx → BitVec 8 → Instr) (mai8 : Addr → BitVec 8 → Instr)
    (ri16 mri16 : RegIx → BitVec 16 → Instr) (mai16 : Addr → BitVec 16 → Instr)
    (ri24 mri24 : RegIx → BitVec 24 → Instr) (mai24 : Addr → BitVec 24 → Instr)
    (ri32 mri32 : RegIx → BitVec 32 → Instr) (mai32 : Addr → BitVec 32 → Instr) : Prop :=
  (∀ a b, P .w8 (.reg a) (.place (.reg b)) (rr8 a b)) ∧
  (∀ a imm, P .w8 (.reg a) (.imm imm) (ri8 a imm)) ∧
  (∀ a b, P .w8 (.reg a) (.place (.mem (.reg b))) (rmr8 a b)) ∧
  (∀ a addr, P .w8 (.reg a) (.place (.mem (.abs addr))) (rma8 a addr)) ∧
  (∀ a b, P .w8 (.mem (.reg a)) (.place (.reg b)) (mrr8 a b)) ∧
  (∀ addr a, P .w8 (.mem (.abs addr)) (.place (.reg a)) (mar8 addr a)) ∧
  (∀ a imm, P .w8 (.mem (.reg a)) (.imm imm) (mri8 a imm)) ∧
  (∀ addr imm, P .w8 (.mem (.abs addr)) (.imm imm) (mai8 addr imm)) ∧
  (∀ a b, P .w16 (.reg a) (.place (.reg b)) (rr16 a b)) ∧
  (∀ a imm, P .w16 (.reg a) (.imm imm) (ri16 a imm)) ∧
  (∀ a b, P .w16 (.reg a) (.place (.mem (.reg b))) (rmr16 a b)) ∧
  (∀ a addr, P .w16 (.reg a) (.place (.mem (.abs addr))) (rma16 a addr)) ∧
  (∀ a b, P .w16 (.mem (.reg a)) (.place (.reg b)) (mrr16 a b)) ∧
  (∀ addr a, P .w16 (.mem (.abs addr)) (.place (.reg a)) (mar16 addr a)) ∧
  (∀ a imm, P .w16 (.mem (.reg a)) (.imm imm) (mri16 a imm)) ∧
  (∀ addr imm, P .w16 (.mem (.abs addr)) (.imm imm) (mai16 addr imm)) ∧
  (∀ a b, P .w24 (.reg a) (.place (.reg b)) (rr24 a b)) ∧
  (∀ a imm, P .w24 (.reg a) (.imm imm) (ri24 a imm)) ∧
  (∀ a b, P .w24 (.reg a) (.place (.mem (.reg b))) (rmr24 a b)) ∧
  (∀ a addr, P .w24 (.reg a) (.place (.mem (.abs addr))) (rma24 a addr)) ∧
  (∀ a b, P .w24 (.mem (.reg a)) (.place (.reg b)) (mrr24 a b)) ∧
  (∀ addr a, P .w24 (.mem (.abs addr)) (.place (.reg a)) (mar24 addr a)) ∧
  (∀ a imm, P .w24 (.mem (.reg a)) (.imm imm) (mri24 a imm)) ∧
  (∀ addr imm, P .w24 (.mem (.abs addr)) (.imm imm) (mai24 addr imm)) ∧
  (∀ a b, P .w32 (.reg a) (.place (.reg b)) (rr32 a b)) ∧
  (∀ a imm, P .w32 (.reg a) (.imm imm) (ri32 a imm)) ∧
  (∀ a b, P .w32 (.reg a) (.place (.mem (.reg b))) (rmr32 a b)) ∧
  (∀ a addr, P .w32 (.reg a) (.place (.mem (.abs addr))) (rma32 a addr)) ∧
  (∀ a b, P .w32 (.mem (.reg a)) (.place (.reg b)) (mrr32 a b)) ∧
  (∀ addr a, P .w32 (.mem (.abs addr)) (.place (.reg a)) (mar32 addr a)) ∧
  (∀ a imm, P .w32 (.mem (.reg a)) (.imm imm) (mri32 a imm)) ∧
  (∀ addr imm, P .w32 (.mem (.abs addr)) (.imm imm) (mai32 addr imm))

/-- The 32 forms of AND. -/
def andForms (P : (w : Width) → Place → Source w → Instr → Prop) : Prop :=
  BinaryForms P .andRR8 .andRR16 .andRR24 .andRR32 .andRMr8 .andRMr16 .andRMr24 .andRMr32 .andMrR8 .andMrR16 .andMrR24
    .andMrR32 .andRMa8 .andRMa16 .andRMa24 .andRMa32 .andMaR8 .andMaR16 .andMaR24 .andMaR32 .andRI8 .andMrI8 .andMaI8
    .andRI16 .andMrI16 .andMaI16 .andRI24 .andMrI24 .andMaI24 .andRI32 .andMrI32 .andMaI32

/-- The 32 forms of OR. -/
def orForms (P : (w : Width) → Place → Source w → Instr → Prop) : Prop :=
  BinaryForms P .orRR8 .orRR16 .orRR24 .orRR32 .orRMr8 .orRMr16 .orRMr24 .orRMr32 .orMrR8 .orMrR16 .orMrR24 .orMrR32
    .orRMa8 .orRMa16 .orRMa24 .orRMa32 .orMaR8 .orMaR16 .orMaR24 .orMaR32 .orRI8 .orMrI8 .orMaI8 .orRI16 .orMrI16
    .orMaI16 .orRI24 .orMrI24 .orMaI24 .orRI32 .orMrI32 .orMaI32

/-- The 32 forms of XOR. -/
def xorForms (P : (w : Width) → Place → Source w → Instr → Prop) : Prop :=
  BinaryForms P .xorRR8 .xorRR16 .xorRR24 .xorRR32 .xorRMr8 .xorRMr16 .xorRMr24 .xorRMr32 .xorMrR8 .xorMrR16 .xorMrR24
    .xorMrR32 .xorRMa8 .xorRMa16 .xorRMa24 .xorRMa32 .xorMaR8 .xorMaR16 .xorMaR24 .xorMaR32 .xorRI8 .xorMrI8 .xorMaI8
    .xorRI16 .xorMrI16 .xorMaI16 .xorRI24 .xorMrI24 .xorMaI24 .xorRI32 .xorMrI32 .xorMaI32

/-- The 32 forms of NOR. -/
def norForms (P : (w : Width) → Place → Source w → Instr → Prop) : Prop :=
  BinaryForms P .norRR8 .norRR16 .norRR24 .norRR32 .norRMr8 .norRMr16 .norRMr24 .norRMr32 .norMrR8 .norMrR16 .norMrR24
    .norMrR32 .norRMa8 .norRMa16 .norRMa24 .norRMa32 .norMaR8 .norMaR16 .norMaR24 .norMaR32 .norRI8 .norMrI8 .norMaI8
    .norRI16 .norMrI16 .norMaI16 .norRI24 .norMrI24 .norMaI24 .norRI32 .norMrI32 .norMaI32

/-- The 32 forms of MIN. -/
def minForms (P : (w : Width) → Place → Source w → Instr → Prop) : Prop :=
  BinaryForms P .minRR8 .minRR16 .minRR24 .minRR32 .minRMr8 .minRMr16 .minRMr24 .minRMr32 .minMrR8 .minMrR16 .minMrR24
    .minMrR32 .minRMa8 .minRMa16 .minRMa24 .minRMa32 .minMaR8 .minMaR16 .minMaR24 .minMaR32 .minRI8 .minMrI8 .minMaI8
    .minRI16 .minMrI16 .minMaI16 .minRI24 .minMrI24 .minMaI24 .minRI32 .minMrI32 .minMaI32

/-- The 32 forms of MAX. -/
def maxForms (P : (w : Width) → Place → Source w → Instr → Prop) : Prop :=
  BinaryForms P .maxRR8 .maxRR16 .maxRR24 .maxRR32 .maxRMr8 .maxRMr16 .maxRMr24 .maxRMr32 .maxMrR8 .maxMrR16 .maxMrR24
    .maxMrR32 .maxRMa8 .maxRMa16 .maxRMa24 .maxRMa32 .maxMaR8 .maxMaR16 .maxMaR24 .maxMaR32 .maxRI8 .maxMrI8 .maxMaI8
    .maxRI16 .maxMrI16 .maxMaI16 .maxRI24 .maxMrI24 .maxMaI24 .maxRI32 .maxMrI32 .maxMaI32

/-- The 32 forms of SCP. -/
def scpForms (P : (w : Width) → Place → Source w → Instr → Prop) : Prop :=
  BinaryForms P .scpRR8 .scpRR16 .scpRR24 .scpRR32 .scpRMr8 .scpRMr16 .scpRMr24 .scpRMr32 .scpMrR8 .scpMrR16 .scpMrR24
    .scpMrR32 .scpRMa8 .scpRMa16 .scpRMa24 .scpRMa32 .scpMaR8 .scpMaR16 .scpMaR24 .scpMaR32 .scpRI8 .scpMrI8 .scpMaI8
    .scpRI16 .scpMrI16 .scpMaI16 .scpRI24 .scpMrI24 .scpMaI24 .scpRI32 .scpMrI32 .scpMaI32

/-- A property of one operand at a width, for the 12 shapes of INC or DEC (30_encoding.md R122). -/
def OneOperandForms (P : Width → Place → Instr → Prop) (r8 r16 r24 r32 mr8 mr16 mr24 mr32 : RegIx → Instr)
    (ma8 ma16 ma24 ma32 : Addr → Instr) : Prop :=
  (∀ a, P .w8 (.reg a) (r8 a)) ∧ (∀ a, P .w16 (.reg a) (r16 a)) ∧
  (∀ a, P .w24 (.reg a) (r24 a)) ∧ (∀ a, P .w32 (.reg a) (r32 a)) ∧
  (∀ a, P .w8 (.mem (.reg a)) (mr8 a)) ∧ (∀ a, P .w16 (.mem (.reg a)) (mr16 a)) ∧
  (∀ a, P .w24 (.mem (.reg a)) (mr24 a)) ∧ (∀ a, P .w32 (.mem (.reg a)) (mr32 a)) ∧
  (∀ addr, P .w8 (.mem (.abs addr)) (ma8 addr)) ∧ (∀ addr, P .w16 (.mem (.abs addr)) (ma16 addr)) ∧
  (∀ addr, P .w24 (.mem (.abs addr)) (ma24 addr)) ∧ (∀ addr, P .w32 (.mem (.abs addr)) (ma32 addr))

/-- The 12 forms of INC. -/
def incForms (P : Width → Place → Instr → Prop) : Prop :=
  OneOperandForms P .incR8 .incR16 .incR24 .incR32 .incMr8 .incMr16 .incMr24 .incMr32 .incMa8 .incMa16 .incMa24 .incMa32

/-- The 12 forms of DEC. -/
def decForms (P : Width → Place → Instr → Prop) : Prop :=
  OneOperandForms P .decR8 .decR16 .decR24 .decR32 .decMr8 .decMr16 .decMr24 .decMr32 .decMa8 .decMa16 .decMa24 .decMa32

/-- A property of a target register and an amount, for the 8 shapes of a shift, rotate or bit family (30_encoding.md
R123). -/
def ShiftForms (P : Width → RegIx → Source .w8 → Instr → Prop) (i8 i16 i24 i32 : RegIx → Byte → Instr)
    (r8 r16 r24 r32 : RegIx → RegIx → Instr) : Prop :=
  (∀ a n, P .w8 a (.imm n) (i8 a n)) ∧ (∀ a n, P .w16 a (.imm n) (i16 a n)) ∧
  (∀ a n, P .w24 a (.imm n) (i24 a n)) ∧ (∀ a n, P .w32 a (.imm n) (i32 a n)) ∧
  (∀ a b, P .w8 a (.place (.reg b)) (r8 a b)) ∧ (∀ a b, P .w16 a (.place (.reg b)) (r16 a b)) ∧
  (∀ a b, P .w24 a (.place (.reg b)) (r24 a b)) ∧ (∀ a b, P .w32 a (.place (.reg b)) (r32 a b))

/-- The 8 forms of SL. -/
def slForms (P : Width → RegIx → Source .w8 → Instr → Prop) : Prop :=
  ShiftForms P .slI8 .slI16 .slI24 .slI32 .slR8 .slR16 .slR24 .slR32

/-- The 8 forms of SR. -/
def srForms (P : Width → RegIx → Source .w8 → Instr → Prop) : Prop :=
  ShiftForms P .srI8 .srI16 .srI24 .srI32 .srR8 .srR16 .srR24 .srR32

/-- The 8 forms of RL. -/
def rlForms (P : Width → RegIx → Source .w8 → Instr → Prop) : Prop :=
  ShiftForms P .rlI8 .rlI16 .rlI24 .rlI32 .rlR8 .rlR16 .rlR24 .rlR32

/-- The 8 forms of RR. -/
def rrForms (P : Width → RegIx → Source .w8 → Instr → Prop) : Prop :=
  ShiftForms P .rrI8 .rrI16 .rrI24 .rrI32 .rrR8 .rrR16 .rrR24 .rrR32

/-- The 8 forms of SET. -/
def setForms (P : Width → RegIx → Source .w8 → Instr → Prop) : Prop :=
  ShiftForms P .setI8 .setI16 .setI24 .setI32 .setR8 .setR16 .setR24 .setR32

/-- The 8 forms of RES. -/
def resForms (P : Width → RegIx → Source .w8 → Instr → Prop) : Prop :=
  ShiftForms P .resI8 .resI16 .resI24 .resI32 .resR8 .resR16 .resR24 .resR32

/-- The 8 forms of BIT. -/
def bitForms (P : Width → RegIx → Source .w8 → Instr → Prop) : Prop :=
  ShiftForms P .bitI8 .bitI16 .bitI24 .bitI32 .bitR8 .bitR16 .bitR24 .bitR32

/-- A property of a value register, an address register and an offset, for the 8 shapes of GETBITS or SETBITS
(30_encoding.md R124). -/
def BitFieldForms (P : Width → RegIx → RegIx → Source .w8 → Instr → Prop) (i8 i16 i24 i32 : RegIx → RegIx → Byte → Instr)
    (r8 r16 r24 r32 : RegIx → RegIx → RegIx → Instr) : Prop :=
  (∀ a b n, P .w8 a b (.imm n) (i8 a b n)) ∧ (∀ a b n, P .w16 a b (.imm n) (i16 a b n)) ∧
  (∀ a b n, P .w24 a b (.imm n) (i24 a b n)) ∧ (∀ a b n, P .w32 a b (.imm n) (i32 a b n)) ∧
  (∀ a b c, P .w8 a b (.place (.reg c)) (r8 a b c)) ∧ (∀ a b c, P .w16 a b (.place (.reg c)) (r16 a b c)) ∧
  (∀ a b c, P .w24 a b (.place (.reg c)) (r24 a b c)) ∧ (∀ a b c, P .w32 a b (.place (.reg c)) (r32 a b c))

/-- The 8 forms of GETBITS. -/
def getbitsForms (P : Width → RegIx → RegIx → Source .w8 → Instr → Prop) : Prop :=
  BitFieldForms P .getbitsI8 .getbitsI16 .getbitsI24 .getbitsI32 .getbitsR8 .getbitsR16 .getbitsR24 .getbitsR32

/-- The 8 forms of SETBITS. -/
def setbitsForms (P : Width → RegIx → RegIx → Source .w8 → Instr → Prop) : Prop :=
  BitFieldForms P .setbitsI8 .setbitsI16 .setbitsI24 .setbitsI32 .setbitsR8 .setbitsR16 .setbitsR24 .setbitsR32

/-- A property of a destination and an input, for the 13 shapes of a float family (44_float.md R321). -/
def FloatForms (P : FloatPlace → FloatPlace → Instr → Prop) (ff : FloatIx → FloatIx → Instr)
    (fr8 fr16 fr24 fr32 : FloatIx → RegIx → Instr) (rf8 rf16 rf24 rf32 : RegIx → FloatIx → Instr)
    (fmr : FloatIx → RegIx → Instr) (mrf : RegIx → FloatIx → Instr) (fma : FloatIx → Addr → Instr)
    (maf : Addr → FloatIx → Instr) : Prop :=
  (∀ fa fb, P (.freg fa) (.freg fb) (ff fa fb)) ∧
  (∀ fb a, P (.freg fb) (.ireg .w8 a) (fr8 fb a)) ∧ (∀ fb a, P (.freg fb) (.ireg .w16 a) (fr16 fb a)) ∧
  (∀ fb a, P (.freg fb) (.ireg .w24 a) (fr24 fb a)) ∧ (∀ fb a, P (.freg fb) (.ireg .w32 a) (fr32 fb a)) ∧
  (∀ a fb, P (.ireg .w8 a) (.freg fb) (rf8 a fb)) ∧ (∀ a fb, P (.ireg .w16 a) (.freg fb) (rf16 a fb)) ∧
  (∀ a fb, P (.ireg .w24 a) (.freg fb) (rf24 a fb)) ∧ (∀ a fb, P (.ireg .w32 a) (.freg fb) (rf32 a fb)) ∧
  (∀ fb a, P (.freg fb) (.mem (.reg a)) (fmr fb a)) ∧ (∀ a fb, P (.mem (.reg a)) (.freg fb) (mrf a fb)) ∧
  (∀ fa addr, P (.freg fa) (.mem (.abs addr)) (fma fa addr)) ∧ (∀ addr fa, P (.mem (.abs addr)) (.freg fa) (maf addr fa))

/-- The 13 forms of SQR. -/
def sqrForms (P : FloatPlace → FloatPlace → Instr → Prop) : Prop :=
  FloatForms P .sqrFF .sqrFR8 .sqrFR16 .sqrFR24 .sqrFR32 .sqrRF8 .sqrRF16 .sqrRF24 .sqrRF32
    .sqrFMr .sqrMrF .sqrFMa .sqrMaF

/-- The 13 forms of CBR. -/
def cbrForms (P : FloatPlace → FloatPlace → Instr → Prop) : Prop :=
  FloatForms P .cbrFF .cbrFR8 .cbrFR16 .cbrFR24 .cbrFR32 .cbrRF8 .cbrRF16 .cbrRF24 .cbrRF32
    .cbrFMr .cbrMrF .cbrFMa .cbrMaF

/-- The 13 forms of POW. -/
def powForms (P : FloatPlace → FloatPlace → Instr → Prop) : Prop :=
  FloatForms P .powFF .powFR8 .powFR16 .powFR24 .powFR32 .powRF8 .powRF16 .powRF24 .powRF32
    .powFMr .powMrF .powFMa .powMaF

/-- The 13 forms of SIN. -/
def sinForms (P : FloatPlace → FloatPlace → Instr → Prop) : Prop :=
  FloatForms P .sinFF .sinFR8 .sinFR16 .sinFR24 .sinFR32 .sinRF8 .sinRF16 .sinRF24 .sinRF32
    .sinFMr .sinMrF .sinFMa .sinMaF

/-- The 13 forms of FLOOR. -/
def floorForms (P : FloatPlace → FloatPlace → Instr → Prop) : Prop :=
  FloatForms P .floorFF .floorFR8 .floorFR16 .floorFR24 .floorFR32 .floorRF8 .floorRF16 .floorRF24 .floorRF32
    .floorFMr .floorMrF .floorFMa .floorMaF

/-- The 13 forms of ROUND. -/
def roundForms (P : FloatPlace → FloatPlace → Instr → Prop) : Prop :=
  FloatForms P .roundFF .roundFR8 .roundFR16 .roundFR24 .roundFR32 .roundRF8 .roundRF16 .roundRF24 .roundRF32
    .roundFMr .roundMrF .roundFMa .roundMaF

/-- A property of the three operands, for the 8 forms of MEMC (30_encoding.md R127). -/
def memcForms (P : Source .w24 → Source .w24 → Source .w24 → Instr → Prop) : Prop :=
  (∀ a b c, P (.place (.reg a)) (.place (.reg b)) (.place (.reg c)) (.memcRRR a b c)) ∧
  (∀ a b len, P (.place (.reg a)) (.place (.reg b)) (.imm len) (.memcRRI a b len)) ∧
  (∀ a dst c, P (.place (.reg a)) (.imm dst) (.place (.reg c)) (.memcRIR a dst c)) ∧
  (∀ a dst len, P (.place (.reg a)) (.imm dst) (.imm len) (.memcRII a dst len)) ∧
  (∀ src b c, P (.imm src) (.place (.reg b)) (.place (.reg c)) (.memcIRR src b c)) ∧
  (∀ src b len, P (.imm src) (.place (.reg b)) (.imm len) (.memcIRI src b len)) ∧
  (∀ src dst c, P (.imm src) (.imm dst) (.place (.reg c)) (.memcIIR src dst c)) ∧
  (∀ src dst len, P (.imm src) (.imm dst) (.imm len) (.memcIII src dst len))

/-- A property of the three operands, for the 8 forms of MEMF (30_encoding.md R127). -/
def memfForms (P : Source .w8 → Source .w24 → Source .w24 → Instr → Prop) : Prop :=
  (∀ a b c, P (.place (.reg a)) (.place (.reg b)) (.place (.reg c)) (.memfRRR a b c)) ∧
  (∀ a b len, P (.place (.reg a)) (.place (.reg b)) (.imm len) (.memfRRI a b len)) ∧
  (∀ a addr c, P (.place (.reg a)) (.imm addr) (.place (.reg c)) (.memfRIR a addr c)) ∧
  (∀ a addr len, P (.place (.reg a)) (.imm addr) (.imm len) (.memfRII a addr len)) ∧
  (∀ val b c, P (.imm val) (.place (.reg b)) (.place (.reg c)) (.memfIRR val b c)) ∧
  (∀ val b len, P (.imm val) (.place (.reg b)) (.imm len) (.memfIRI val b len)) ∧
  (∀ val addr c, P (.imm val) (.imm addr) (.place (.reg c)) (.memfIIR val addr c)) ∧
  (∀ val addr len, P (.imm val) (.imm addr) (.imm len) (.memfIII val addr len))

/-! ## Properties of forms -/

/-- The pieces of state a data instruction may change. -/
abbrev dataFields : List Field := [.banks, .mem, .flag]

/-- In every state in which both operands can be read, the instruction completes: the destination holds `f D S` (the same
register, or the bytes at the same effective address), no other register or byte changes, every flag becomes UNDEF, nothing
else changes. -/
def Computes (f : (n : Nat) → BitVec n → BitVec n → BitVec n) (w : Width) (dst : Place) (src : Source w) (i : Instr) : Prop :=
  ∀ s d x, readPlace w dst s = .ok d → readSource w src s = .ok x →
    ∃ t, exec i s = .next t ∧ dst.Wrote w (f w.bits d x) s t ∧ FlagsUndef s t ∧ Unchanged dataFields s t

/-- A list of operand reads, in order: the first that cannot be answered ends the step with its fault. -/
def FaultsAs (reads : State → Except Fault Unit) (i : Instr) : Prop := ∀ s e, reads s = .error e → exec i s = .fault e

/-- The reads of the binary shapes: the first operand, then the second. -/
def ReadsTwo (w : Width) (dst : Place) (src : Source w) (i : Instr) : Prop :=
  FaultsAs (fun s => do discard (readPlace w dst s); discard (readSource w src s)) i

/-- The read of the one operand of INC, DEC and INV. -/
def ReadsOne (w : Width) (dst : Place) (i : Instr) : Prop := FaultsAs (fun s => discard (readPlace w dst s)) i

/-- The reads of a shift, rotate or bit form: the target, then the amount. -/
def ReadsTarget (w : Width) (a : RegIx) (amount : Source .w8) (i : Instr) : Prop :=
  FaultsAs (fun s => do discard (readReg w a s); discard (readSource .w8 amount s)) i

/-- The reads of GETBITS: the address, the offset, the field; then the destination register must exist. -/
def ReadsField (w : Width) (a b : RegIx) (offset : Source .w8) (i : Instr) : Prop :=
  FaultsAs (fun s => do
    let addr ← readReg .w24 b s
    let off ← readSource .w8 offset s
    discard (bitRead w addr off s)
    checkReg a s) i

/-- The reads of SETBITS: the address, the offset, the value. -/
def ReadsValue (w : Width) (a b : RegIx) (offset : Source .w8) (i : Instr) : Prop :=
  FaultsAs (fun s => do discard (readReg .w24 b s); discard (readSource .w8 offset s); discard (readReg w a s)) i

/-- The read of a unary float form, then its destination: an effective address that cannot be read, four bytes that pass the
memory, and a register that does not exist for a result that fits, fault. -/
def ReadsFloat (f : Word → Word) (dst src : FloatPlace) (i : Instr) : Prop :=
  FaultsAs (fun s => discard (readFloat src s)) i ∧
  ∀ s x, readFloat src s = .ok x →
    (∀ m, dst = .mem m → (∀ e, m.address s = .error e → exec i s = .fault e) ∧
      ∀ a, m.address s = .ok a → memSize < a.toNat + 4 → exec i s = .fault .memOutOfRange) ∧
    ∀ w r n, dst = .ireg w r → FitsUnsigned w (f x) n → ¬ s.HasReg r → exec i s = .fault .regIndexOutOfRange

/-- The reads of POW: the old destination, then the input. -/
def ReadsFloats (dst src : FloatPlace) (i : Instr) : Prop :=
  FaultsAs (fun s => do discard (readFloat dst s); discard (readFloat src s)) i

/-- As `Computes`, for one operand that is source and destination. -/
def Updates (f : (n : Nat) → BitVec n → BitVec n) (w : Width) (dst : Place) (i : Instr) : Prop :=
  ∀ s d, readPlace w dst s = .ok d →
    ∃ t, exec i s = .next t ∧ dst.Wrote w (f w.bits d) s t ∧ FlagsUndef s t ∧ Unchanged dataFields s t

/-- The target register is written with `f D n`, for an amount `n` below the width; with UNDEF otherwise. Every flag becomes
UNDEF, nothing else changes. -/
def Shifts (f : (n : Nat) → BitVec n → Nat → BitVec n) (w : Width) (a : RegIx) (amount : Source .w8) (i : Instr) : Prop :=
  ∀ s d k, readReg w a s = .ok d → readSource .w8 amount s = .ok k →
    ∃ t, exec i s = .next t ∧
      (k.toNat < w.bits → RegWritten w a (f w.bits d k.toNat) s t) ∧ (w.bits ≤ k.toNat → RegUndef w a s t) ∧
      FlagsUndef s t ∧ Unchanged [.banks, .flag] s t

/-- The target register is written with `f D n` for every amount `n`. Every flag becomes UNDEF, nothing else changes. -/
def Rotates (f : (n : Nat) → BitVec n → Nat → BitVec n) (w : Width) (a : RegIx) (amount : Source .w8) (i : Instr) : Prop :=
  ∀ s d k, readReg w a s = .ok d → readSource .w8 amount s = .ok k →
    ∃ t, exec i s = .next t ∧ RegWritten w a (f w.bits d k.toNat) s t ∧
      FlagsUndef s t ∧ Unchanged [.banks, .flag] s t

/-- In every state in which the input can be read and the destination can take the result, `f` of the input goes to the
destination (with the range check and its flag for an integer register); nothing else changes. -/
def FloatComputes (f : Word → Word) (dst src : FloatPlace) (i : Instr) : Prop :=
  ∀ s x, readFloat src s = .ok x → dst.Writable (f x) s →
    ∃ t, exec i s = .next t ∧ dst.Wrote (f x) s t ∧ Unchanged dataFields s t

/-- As `FloatComputes`, for `f` of the old destination and the input. -/
def FloatComputes₂ (f : Word → Word → Word) (dst src : FloatPlace) (i : Instr) : Prop :=
  ∀ s y x, readFloat dst s = .ok y → readFloat src s = .ok x →
    ∃ t, exec i s = .next t ∧ dst.Wrote (f y x) s t ∧ Unchanged dataFields s t

end Sys2Proof.Certificates

section

open Sys2Proof Sys2Proof.Machine Sys2Proof.Certificates

/-- Decoding an encoded instruction gives it back. For every well-formed table of OPC, VAR and CLASS values and every instruction but PLAY, whatever bytes follow, the decoder reads from the encoding the instruction itself, with every operand, and the length of the encoding. -/
def Obligations.DecodeEncode : Prop :=
  ∀ (e : Encoding) (i : Instr) (rest : List Byte), e.wellFormed = true → i.wellFormed = true →
    decodeWith e (encodeWith e i ++ rest) = .instr i (encodeWith e i).length

/-- An instruction has a length of 1 to 13 bytes and no later byte changes it. Whatever the tables, an instruction the decoder reads has a length between 1 and 13 that the bytes cover, and the same first bytes followed by anything else decode to the same instruction with the same length. -/
def Obligations.DecodeReadsItsLength : Prop :=
  ∀ (e : Encoding) (bs : List Byte) (i : Instr) (n : Nat), decodeWith e bs = .instr i n →
    1 ≤ n ∧ n ≤ 13 ∧ n ≤ bs.length ∧ ∀ rest, decodeWith e (bs.take n ++ rest) = .instr i n

/-- The mixed register byte. The first register field is ((S << 3) & 0x1F) | (B2 >> 5), also S[1:0] ++ B2[7:5]; the second is B2 & 0x1F, also B2[4:0]; the worked example gives 13 and 3. -/
def Obligations.MixedRegisterByte : Prop :=
  (∀ s b2 : Byte,
    (mixedA s b2).setWidth 8 = ((s <<< 3) &&& 0x1F#8) ||| (b2 >>> 5) ∧ mixedA s b2 = s.extractLsb' 0 2 ++ b2.extractLsb' 5 3 ∧
    (mixedB b2).setWidth 8 = b2 &&& 0x1F#8 ∧ mixedB b2 = b2.extractLsb' 0 5) ∧
  mixedA 0b00000101#8 0b10100011#8 = 13#5 ∧ mixedB 0b10100011#8 = 3#5

/-- Words written out from the encoding tables decode to their instructions. Under the spec's illustrative assignment of byte values (D50): AND.RR.8 r1, r5; AND.MaI.32 (0x012345), #0x6789ABCD; SL.I.8 r1, #3; JP cond(5), 0x000200; MEMC.III; POW.FF f0, f1; BREAK. -/
def Obligations.DecodeWords : Prop :=
  decode [0x01, 0x00, 0x25] = .instr (.andRR8 1 5) 3 ∧
  decode [0x01, 0x7C, 0x00, 0x01, 0x23, 0x45, 0x67, 0x89, 0xAB, 0xCD] = .instr (.andMaI32 0x012345 0x6789ABCD) 10 ∧
  decode [0x0A, 0x00, 0x20, 0x03] = .instr (.slI8 1 3) 4 ∧
  decode [0x13, 0x45, 0x00, 0x02, 0x00] = .instr (.jpCond 5 0x000200) 5 ∧
  decode [0x20, 0x1C, 0x00, 0x00, 0x00, 0x01, 0x00, 0x00, 0x01, 0x05, 0x00, 0x00, 0x0A] =
    .instr (.memcIII 0x000100 0x000105 0x00000A) 13 ∧
  decode [0x1C, 0x00, 0x01] = .instr (.powFF 0 1) 3 ∧
  decode [0x30] = .instr .brk 1

/-- A step runs the decoded instruction. When the machine runs and the bytes at IPO decode to an instruction of n bytes, the step is exec of that instruction at the state with IPO moved past those n bytes and nothing else changed. -/
def Obligations.StepRunsDecoded : Prop :=
  ∀ (s : State) (i : Instr) (n : Nat), s.running = true → decodeWith s.params.encoding s.window.1 = .instr i n →
    step s = exec i { s with ipo := s.ipo + BitVec.ofNat 32 n }

/-- Decode misses, unknown bytes and fetch faults. A primary byte that is a miss moves IPO by 1 and changes nothing else; a sub-opcode that is a miss moves IPO by 2; an unknown primary byte or sub-opcode is refused. When the first k bytes at IPO can be fetched and do not suffice to tell what they are (k = 0, a sub-opcode still to come, a format or trailing byte), a next byte at or beyond MEM_SIZE and one that is undefined each fault. -/
def Obligations.StepWithoutInstruction : Prop :=
  ∀ (s : State), s.running = true →
    (∀ bs : List Byte, (∀ k (h : k < bs.length), fetchByte s.mem (s.ipo + BitVec.ofNat 32 k) = .ok bs[k]) →
      decodeWith s.params.encoding bs = .short →
      (memSize ≤ (s.ipo + BitVec.ofNat 32 bs.length).toNat → step s = .fault .fetchOutOfRange) ∧
      ((s.ipo + BitVec.ofNat 32 bs.length).toNat < memSize → s.byte? (s.ipo + BitVec.ofNat 32 bs.length).toNat = none →
        step s = .fault .readUndefined)) ∧
    ∀ op, fetchByte s.mem s.ipo = .ok op →
      (classifyPrimary s.params.encoding op = .miss → step s = .next { s with ipo := s.ipo + 1 }) ∧
      (classifyPrimary s.params.encoding op = .unknown → step s = .refused .unknownEncoding) ∧
      ∀ m fc sub, classifyPrimary s.params.encoding op = .family m fc → m ≠ .brk → m ≠ .play →
        fetchByte s.mem (s.ipo + 1) = .ok sub →
        (classifySub m fc sub = .miss → step s = .next { s with ipo := s.ipo + 2 }) ∧
        (classifySub m fc sub = .unknown → step s = .refused .unknownEncoding)

/-- The state of a halted machine is final. When RUNNING is false, a step changes nothing (that it answers the same state is the model's choice, log 15). -/
def Obligations.HaltedIsFinal : Prop :=
  ∀ s : State, s.running = false → step s = .next s

/-- Every step keeps the machine's invariant. From every state in which memory and the high-memory store are canonical, there are NUM_BANKS banks, BANK is one of them, the call stack has CALL_STACK_DEPTH entries and SPC is at most that, a step that answers a next state answers one of which the same holds. -/
def Obligations.StepKeepsInvariant : Prop :=
  ∀ s t : State, s.Inv → step s = .next t → t.Inv

/-- The reset state meets the invariant. The state after reset meets the invariant that every step keeps; so does every state a machine reset creates from well-formed launch parameters and a canonical high-memory store. -/
def Obligations.ResetMeetsInvariant : Prop :=
  State.reset.Inv ∧
  ∀ s : State, s.params.bankExists = true → Store.Wf hmemSize s.hmem → s.machineReset.Inv

/-- What a reset leaves. A machine reset gives BANK its launch value, IPO = ENTRY, SPC = 0, RUNNING true; the high-memory store is empty or kept by HMEM_CLEARED_ON_RESET; it is empty at the first start, with a memory that lists nothing (no image: log 7). With the model's own parameter undefAtReset (log 3), every register of every bank, every float register and every flag is UNDEF and faults when read, as R53 says; State.reset has it off, and the values the registers then hold are not part of the statement. -/
def Obligations.ResetValues : Prop :=
  (∀ s : State, s.machineReset.bank = s.params.bankAtReset ∧ s.machineReset.ipo = s.params.entry ∧
    s.machineReset.spc = 0 ∧ s.machineReset.running = true ∧ s.machineReset.params = s.params ∧
    (s.params.hmemClearedOnReset = true → s.machineReset.hmem = []) ∧
    (s.params.hmemClearedOnReset = false → s.machineReset.hmem = s.hmem) ∧
    (s.params.undefAtReset = true → ∀ k < s.params.numBanks, let t := { s.machineReset with bank := k };
      (∀ w i, t.HasReg i → readReg w i t = .error .readUndefined) ∧
      (∀ j, readFloatReg j t = .error .readUndefined) ∧ ∀ n, readFlag n t = .error .readUndefined)) ∧
  State.reset.bank = State.reset.params.bankAtReset ∧ State.reset.ipo = State.reset.params.entry ∧ State.reset.spc = 0 ∧
  State.reset.running = true ∧ State.reset.hmem = [] ∧ State.reset.mem = []

/-- A reset leaves the image in memory. After a machine reset, an address the loader listed once holds the byte it was given, and an address the loader did not list is undefined. -/
def Obligations.ResetMemory : Prop :=
  ∀ (s : State) (a : Nat),
    (∀ pre b post, s.params.image = pre ++ (a, b) :: post → a < memSize → (∀ c ∈ pre ++ post, c.1 ≠ a) →
      s.machineReset.byte? a = some b) ∧
    ((∀ c ∈ s.params.image, c.1 ≠ a) → s.machineReset.byte? a = none)

/-- No step changes the parameters. The parameters of the implementation and the launch, the encoding tables among them, are the same after every step. -/
def Obligations.ParametersNeverChange : Prop :=
  ∀ s t : State, step s = .next t → t.params = s.params

/-- Which families write the control state. INT apart, which may change anything: only BANKSEL writes BANK; only CALL, CALLR, RET and RETIF write SPC and the call stack; only SETVAR writes the high-memory store; only BREAK, RET and RETIF write RUNNING; only RAND writes RNG; only control transfers and BREAK write IPO; only WAIT, SMUL, VCL and VDL record host events. -/
def Obligations.OnlyWriters : Prop :=
  ∀ (i : Instr) (s t : State), exec i s = .next t → i.code.family ≠ .int →
    (i.code.family ≠ .banksel → t.bank = s.bank) ∧
    (i.code.family ∉ [.call, .callr, .ret, .retif] → t.spc = s.spc ∧ t.cs = s.cs) ∧
    (i.code.family ≠ .setvar → t.hmem = s.hmem) ∧
    (i.code.family ∉ [.brk, .ret, .retif] → t.running = s.running) ∧
    (i.code.family ≠ .rand → t.rng = s.rng) ∧
    (i.code.family ∉ [.jp, .jr, .call, .callr, .ret, .retif, .brk] → t.ipo = s.ipo) ∧
    (i.code.family ∉ [.wait, .smul, .vcl, .vdl] → t.events = s.events)

/-- Which families write memory and which write registers. INT apart: every family not listed as storing leaves all of memory unchanged, and every family not listed as writing registers leaves every bank unchanged. -/
def Obligations.MemoryAndRegisterWriters : Prop :=
  ∀ (i : Instr) (s t : State), exec i s = .next t → i.code.family ≠ .int →
    (i.code.family ∉ [.and, .or, .xor, .nor, .min, .max, .inc, .dec, .setbits, .sqr, .cbr, .pow, .sin, .floor, .round,
      .memc, .memf, .stregs, .vcl, .vdl] → t.mem = s.mem) ∧
    (i.code.family ∈ [.bit, .setbits, .jp, .jr, .call, .callr, .ret, .retif, .scp, .memc, .memf, .stregs, .banksel, .wait,
      .setvar, .smul, .vcl, .vdl, .brk] → t.banks = s.banks)

/-- Which instructions change which flags. Control transfers, BREAK and SMUL leave every flag, an UNDEF one UNDEF; SCP leaves bits 1, 4 and 8 to 31 so; BIT leaves every flag UNDEF, or every flag but BIT_FLAG; a float family leaves every flag UNDEF, or every flag but OVF_BIT; every other family but INT leaves every flag UNDEF. -/
def Obligations.FlagEffects : Prop :=
  ∀ (i : Instr) (s t : State), exec i s = .next t → i.code.family ≠ .int →
    (i.code.family ∈ [.jp, .jr, .call, .callr, .ret, .retif, .brk, .smul] → t.flag = s.flag ∧ t.flagUndef = s.flagUndef) ∧
    (i.code.family = .scp → ∀ n : FlagIx, n ∉ [(0 : FlagIx), 2, 3, 5, 6, 7] →
      t.flagBit n = s.flagBit n ∧ t.flagBitUndef n = s.flagBitUndef n) ∧
    (i.code.family = .bit → FlagsUndef s t ∨ ∃ b, FlagsUndefBut s.params.bitFlag b s t) ∧
    (i.code.family ∈ [.sqr, .cbr, .pow, .sin, .floor, .round] →
      FlagsUndef s t ∨ ∃ b, FlagsUndefBut s.params.ovfBit.index b s t) ∧
    (i.code.family ∉ [.jp, .jr, .call, .callr, .ret, .retif, .brk, .smul, .scp, .bit, .sqr, .cbr, .pow, .sin, .floor, .round] →
      FlagsUndef s t)

/-- Reading a register view, a float register and a flag. The active bank is the one with index BANK. Under ByteOverlap, byte k of xW[i] (the first the most significant) is byte cell (i + k) mod NUM_INT_REGS of it, and the view is UNDEF when one of these cells is; under Cell32, xW[i] is the low W bits of cell i, and UNDEF when one of these bits is; f[j] is float register j of the same bank. A register that does not exist faults; an UNDEF view, float register or flag faults; any other read answers the value. -/
def Obligations.RegisterRead : Prop :=
  ∀ (s : State) (w : Width) (i : RegIx) (j : FloatIx) (n : FlagIx),
    (∀ b, s.banks[s.bank]? = some b → s.activeBank = b) ∧
    (s.params.regLayout = .byteOverlap → s.HasReg i →
      (∀ k < w.bytes, (s.view w i).extractLsb' (w.bits - 8 - 8 * k) 8 =
        s.activeBank.bytes.toList.getD ((i.toNat + k) % s.params.numIntRegs) 0) ∧
      (s.viewUndef w i = true ↔
        ∃ k < w.bytes, s.activeBank.bytesUndef.toList.getD ((i.toNat + k) % s.params.numIntRegs) false = true)) ∧
    (s.params.regLayout = .cell32 → s.view w i = (s.activeBank.words.toList.getD i.toNat 0).setWidth w.bits ∧
      (s.viewUndef w i = true ↔ ∃ k < w.bits, (s.activeBank.wordsUndef.toList.getD i.toNat 0).getLsbD k = true)) ∧
    (¬ s.HasReg i → readReg w i s = .error .regIndexOutOfRange) ∧
    (s.HasReg i → s.viewUndef w i = true → readReg w i s = .error .readUndefined) ∧
    (s.HasReg i → s.viewUndef w i = false → readReg w i s = .ok (s.view w i)) ∧
    (s.activeBank.floatsUndef.toList.getD j.toNat false = true → readFloatReg j s = .error .readUndefined) ∧
    (s.activeBank.floatsUndef.toList.getD j.toNat false = false →
      readFloatReg j s = .ok (s.activeBank.floats.toList.getD j.toNat 0)) ∧
    (s.flagUndef.getLsbD n.toNat = true → readFlag n s = .error .readUndefined) ∧
    (s.flagUndef.getLsbD n.toNat = false → readFlag n s = .ok (s.flag.getLsbD n.toNat))

/-- Writing a register view or a float register, with a value or with UNDEF. A write to an existing register, even an UNDEF one, is read back, leaves every view that shares no storage with it, every float register, every other bank and everything else as it was; under Cell32 the bits above a narrow view become UNDEF. No register is hardwired. After UNDEF is written every view that shares a byte or bit with the one written faults when read, the rest as for a value. A write to a float register is read back and leaves every other register. A register that does not exist faults. -/
def Obligations.RegisterWrite : Prop :=
  ∀ (s : State) (w : Width) (i : RegIx),
    (¬ s.HasReg i → ∀ v, writeReg w i v s = .error .regIndexOutOfRange) ∧
    (s.HasReg i → ∀ v,
      ∃ t, writeReg w i v s = .ok t ∧ RegWritten w i v s t ∧ Unchanged [.banks] s t ∧
        (s.Fits w → readReg w i t = .ok v) ∧
        (s.params.regLayout = .cell32 → s.bank < s.banks.length → ∀ w', w.bits < w'.bits →
          readReg w' i t = .error .readUndefined)) ∧
    (s.HasReg i → RegUndef w i s (s.setViewFree w i) ∧ Unchanged [.banks] s (s.setViewFree w i) ∧
      (s.bank < s.banks.length → ∀ w' j, s.HasReg j → ¬ Apart s.params w i w' j →
        readReg w' j (s.setViewFree w i) = .error .readUndefined)) ∧
    ∀ j p, FloatWritten j p s (s.setFloat j p) ∧ Unchanged [.banks] s (s.setFloat j p) ∧
      (s.bank < s.banks.length → readFloatReg j (s.setFloat j p) = .ok p)

/-- Reading and writing memory. An access that reaches past the memory faults; a read gives the big-endian value of its bytes, or faults where one is undefined; a write stores the bytes of the value, the most significant at the lowest address, is read back, leaves every other byte and all other state, and keeps the memory canonical. No alignment is required. -/
def Obligations.MemoryAccess : Prop :=
  ∀ (s : State) (w : Width) (a : Addr) (v : BitVec w.bits),
    (memSize < a.toNat + w.bytes → readMem w a s = .error .memOutOfRange ∧ writeMem w a v s = .error .memOutOfRange) ∧
    (a.toNat + w.bytes ≤ memSize →
      ((∀ k < w.bytes, s.byte? (a.toNat + k) = some (v.extractLsb' (w.bits - 8 - 8 * k) 8)) → readMem w a s = .ok v) ∧
      ((∃ k < w.bytes, s.byte? (a.toNat + k) = none) → readMem w a s = .error .readUndefined) ∧
      ∃ t, writeMem w a v s = .ok t ∧ MemWritten w a.toNat v s t ∧ readMem w a t = .ok v ∧ Unchanged [.mem] s t ∧
        (Memory.wf s.mem → Memory.wf t.mem))

/-- MemWrite stores the bytes of the value. For an access inside the memory, MemWrite of an 8n-bit value stores M[a+k] <- v[8n-1-8k : 8n-8-8k] for every k below n; for two bytes the first is the high byte. -/
def Obligations.MemoryWriteBytes : Prop :=
  ∀ (s : State) (w : Width) (a : Addr) (v : BitVec w.bits), a.toNat + w.bytes ≤ memSize →
    ∃ t, writeMem w a v s = .ok t ∧
      ∀ k < w.bytes, t.byte? (a.toNat + k) = some (v.extractLsb' (8 * w.bytes - 8 - 8 * k) 8)

/-- The bit-addressed view of memory: what a field is, and writing then reading it back. In both bit orders: a field of defined bytes is read bit by bit as the spec places them, and a field with an UNDEF byte faults. A write gives each bit of the field its bit of the value in every byte that was defined or is fully covered; an UNDEF byte covered partly stays UNDEF; every other bit of a defined byte and every other byte is kept. Reading the field after writing it gives the value written when every touched byte was defined or fully covered. A field that reaches past the memory faults on read and write. -/
def Obligations.BitFieldView : Prop :=
  ∀ (s : State) (w : Width) (a : Addr) (off : Byte),
    (memSize ≤ lastByte w a.toNat off.toNat →
      bitRead w a off s = .error .memOutOfRange ∧ ∀ v, bitWrite w a off v s = .error .memOutOfRange) ∧
    (lastByte w a.toNat off.toNat < memSize →
      (FieldDefined s w a.toNat off.toNat → ∃ v, bitRead w a off s = .ok v ∧ FieldHolds s w a.toNat off.toNat v) ∧
      (¬ FieldDefined s w a.toNat off.toNat → bitRead w a off s = .error .readUndefined) ∧
      ∀ v, ∃ t, bitWrite w a off v s = .ok t ∧ FieldWritten w a.toNat off.toNat v s t ∧ Unchanged [.mem] s t ∧
        (FieldDetermined s w a.toNat off.toNat → bitRead w a off t = .ok v))

/-- AND, OR, XOR and NOR complete with their results in all 32 forms each. In every state in which both operands can be read, each of the 128 forms completes: the destination register or memory bytes hold D & S, D | S, D ^ S or (2^W - 1) - (D | S), no other register or byte changes, every flag becomes UNDEF, nothing else changes. -/
def Obligations.BitwiseResults : Prop :=
  andForms (Computes fun _ d x => d &&& x) ∧ orForms (Computes fun _ d x => d ||| x) ∧
  xorForms (Computes fun _ d x => d ^^^ x) ∧ norForms (Computes fun n d x => BitVec.ofNat n (2 ^ n - 1 - (d ||| x).toNat))

/-- MIN and MAX complete with the unsigned minimum and maximum in their 32 integer forms each. In every state in which both operands can be read, each of the 64 forms completes: the destination holds the smaller or larger of D and S as unsigned W-bit values, no other register or byte changes, every flag becomes UNDEF, nothing else changes. -/
def Obligations.MinMaxResults : Prop :=
  minForms (Computes fun n d x => BitVec.ofNat n (min d.toNat x.toNat)) ∧
  maxForms (Computes fun n d x => BitVec.ofNat n (max d.toNat x.toNat))

/-- The first operand that cannot be read ends the step with its fault. In every form of every family that reads operands (of INT none): the operands are read in the order the family rule lists them, and the first that cannot be read (a register that does not exist, an UNDEF register, float register or flag, memory past the end or undefined) ends the step with its fault. A destination that is only written (GETBITS, GETVAR, RAND, a float destination) faults when it cannot be written. -/
def Obligations.OperandFaults : Prop :=
  let RF : Width → (RegIx → FloatIx → Instr) → Prop := fun w i => ∀ a fb,
    FaultsAs (fun s => do discard (readReg w a s); discard (readFloatReg fb s)) (i a fb)
  let EX : Width → (RegIx → RegIx → Instr) → Prop := fun w i => ∀ a b,
    FaultsAs (fun s => do discard (readReg w a s); discard (readReg w b s)) (i a b)
  andForms ReadsTwo ∧ orForms ReadsTwo ∧ xorForms ReadsTwo ∧ norForms ReadsTwo ∧ minForms ReadsTwo ∧ maxForms ReadsTwo ∧
  scpForms ReadsTwo ∧ incForms ReadsOne ∧ decForms ReadsOne ∧
  (∀ a, ReadsOne .w8 (.reg a) (.invR8 a) ∧ ReadsOne .w16 (.reg a) (.invR16 a) ∧ ReadsOne .w24 (.reg a) (.invR24 a) ∧
    ReadsOne .w32 (.reg a) (.invR32 a)) ∧
  slForms ReadsTarget ∧ srForms ReadsTarget ∧ rlForms ReadsTarget ∧ rrForms ReadsTarget ∧ setForms ReadsTarget ∧
  resForms ReadsTarget ∧ bitForms ReadsTarget ∧ getbitsForms ReadsField ∧ setbitsForms ReadsValue ∧
  (RF .w8 .minRF8 ∧ RF .w16 .minRF16 ∧ RF .w24 .minRF24 ∧ RF .w32 .minRF32 ∧
    RF .w8 .maxRF8 ∧ RF .w16 .maxRF16 ∧ RF .w24 .maxRF24 ∧ RF .w32 .maxRF32) ∧
  (∀ fa fb, ReadsFloats (.freg fa) (.freg fb) (.minFF fa fb) ∧ ReadsFloats (.freg fa) (.freg fb) (.maxFF fa fb)) ∧
  sqrForms (ReadsFloat fsqrt) ∧ cbrForms (ReadsFloat fcbrt) ∧ sinForms (ReadsFloat fsin) ∧ floorForms (ReadsFloat ffloor) ∧
  roundForms (ReadsFloat fround) ∧ powForms ReadsFloats ∧
  memcForms (fun src dst len =>
    FaultsAs fun s => do discard (readSource .w24 src s); discard (readSource .w24 dst s); discard (readSource .w24 len s)) ∧
  memfForms (fun val addr len =>
    FaultsAs fun s => do discard (readSource .w8 val s); discard (readSource .w24 addr s); discard (readSource .w24 len s)) ∧
  (∀ a n, FaultsAs (fun s => discard (readReg .w24 a s)) (.findBI a n)) ∧
  (∀ a b, FaultsAs (fun s => do discard (readReg .w24 a s); discard (readReg .w8 b s)) (.findBR a b)) ∧
  (∀ a addr, FaultsAs (fun s => do discard (scanPattern addr s); discard (readReg .w24 a s)) (.findPA a addr)) ∧
  (∀ a b, FaultsAs (fun s => do let p ← readReg .w24 b s; discard (scanPattern p s); discard (readReg .w24 a s)) (.findPR a b)) ∧
  (∀ a b c, FaultsAs (fun s => discard (readReg .w24 c s)) (.ldregsMr a b c) ∧
    FaultsAs (fun s => discard (readReg .w24 c s)) (.stregsMr a b c)) ∧
  (EX .w8 .ex8 ∧ EX .w16 .ex16 ∧ EX .w24 .ex24 ∧ EX .w32 .ex32) ∧
  (∀ a, FaultsAs (checkReg a) (.rand8 a) ∧ FaultsAs (checkReg a) (.rand16 a) ∧ FaultsAs (checkReg a) (.rand24 a) ∧
    FaultsAs (checkReg a) (.rand32 a)) ∧
  (∀ r, FaultsAs (fun s => discard (readReg .w32 r s)) (.randSeedR r) ∧
    FaultsAs (fun s => discard (readReg .w16 r s)) (.waitR r) ∧
    FaultsAs (fun s => discard (readReg .w8 r s)) (.bankselR r) ∧
    FaultsAs (fun s => discard (readReg .w8 r s)) (.vclR r) ∧ FaultsAs (fun s => discard (readReg .w8 r s)) (.vdlR r) ∧
    FaultsAs (fun s => discard (readReg .w24 r s)) (.jpReg r) ∧ FaultsAs (fun s => discard (readReg .w24 r s)) (.callReg r)) ∧
  (∀ a v, FaultsAs (fun s => discard (readReg .w32 a s)) (.setvarRI a v)) ∧
  (∀ k b, FaultsAs (fun s => discard (readReg .w32 b s)) (.setvarIR k b)) ∧
  (∀ a b, FaultsAs (fun s => do discard (readReg .w32 a s); discard (readReg .w32 b s)) (.setvarRR a b)) ∧
  (∀ a k, FaultsAs (fun s => do discard (getVar k s); checkReg a s) (.getvarI a k)) ∧
  (∀ a b, FaultsAs (fun s => do let k ← readReg .w32 b s; discard (getVar k s); checkReg a s) (.getvarR a b)) ∧
  (∀ a b, FaultsAs (fun s => discard (readReg .w8 b s)) (.smulRR8 a b) ∧
    FaultsAs (fun s => discard (readReg .w16 b s)) (.smulRR16 a b) ∧
    FaultsAs (fun s => discard (readReg .w24 b s)) (.smulRR24 a b) ∧
    FaultsAs (fun s => discard (readReg .w32 b s)) (.smulRR32 a b)) ∧
  (∀ flag addr, FaultsAs (fun s => discard (readFlag flag s)) (.jpCond flag addr) ∧
    FaultsAs (fun s => discard (readFlag flag s)) (.callCond flag addr)) ∧
  ∀ flag, FaultsAs (fun s => discard (readFlag flag s)) (.retif flag)

/-- MIN and MAX of an integer register with a float register. With r the smaller (MIN) or larger (MAX) of D and the magnitude of the float, truncated: a NaN writes UNDEF to the register; a result of W bits is written, or for D > 2^24 either it or D; a larger result leaves the registers unchanged. Every flag becomes UNDEF, nothing else changes. Both registers must be readable. -/
def Obligations.MinMaxFloatSource : Prop :=
  let P : (Nat → Nat → Nat) → Width → (RegIx → FloatIx → Instr) → Prop := fun pick w i =>
    ∀ (a : RegIx) (fb : FloatIx) (s : State) (d : BitVec w.bits) (p : Word), readReg w a s = .ok d →
      readFloatReg fb s = .ok p →
      let r := pick (d.toNat * 2 ^ 149) (floatMag p) / 2 ^ 149
      ∃ t, exec (i a fb) s = .next t ∧ FlagsUndef s t ∧ Unchanged [.banks, .flag] s t ∧
        (isNaN p = true → RegUndef w a s t) ∧
        (isNaN p = false → r < 2 ^ w.bits →
          ∃ v, RegWritten w a v s t ∧ (v = BitVec.ofNat w.bits r ∨ (2 ^ 24 < d.toNat ∧ v = d))) ∧
        (isNaN p = false → 2 ^ w.bits ≤ r → t.banks = s.banks)
  P min .w8 .minRF8 ∧ P min .w16 .minRF16 ∧ P min .w24 .minRF24 ∧ P min .w32 .minRF32 ∧
  P max .w8 .maxRF8 ∧ P max .w16 .maxRF16 ∧ P max .w24 .maxRF24 ∧ P max .w32 .maxRF32

/-- MIN and MAX of two float registers. When neither operand is a NaN, the destination gets the operand with the smaller (MIN) or larger (MAX) value; for two zeros it gets one of them. When both can be read the instruction completes, no other register changes, every flag becomes UNDEF, nothing else changes. -/
def Obligations.MinMaxFloatRegisters : Prop :=
  let P : (Int → Int → Prop) → (FloatIx → FloatIx → Instr) → Prop := fun before i =>
    ∀ (fa fb : FloatIx) (s : State) (x y : Word), readFloatReg fa s = .ok x → readFloatReg fb s = .ok y →
      ∃ t r, exec (i fa fb) s = .next t ∧ FloatWritten fa r s t ∧ FlagsUndef s t ∧ Unchanged [.banks, .flag] s t ∧
        (isNaN x = false → isNaN y = false →
          (before (floatInt x) (floatInt y) → r = x) ∧ (before (floatInt y) (floatInt x) → r = y) ∧ (r = x ∨ r = y))
  P (fun x y => x < y) .minFF ∧ P (fun x y => y < x) .maxFF

/-- INC and DEC complete with the sum and difference modulo 2^W in their 12 forms each. In every state in which the operand can be read, the operand becomes (D + 1) mod 2^W or (D - 1) mod 2^W, no other register or byte changes, every flag becomes UNDEF, nothing else changes. -/
def Obligations.IncDecResults : Prop :=
  incForms (Updates fun n d => BitVec.ofNat n ((d.toNat + 1) % 2 ^ n)) ∧
  decForms (Updates fun n d => BitVec.ofNat n ((d.toNat + (2 ^ n - 1)) % 2 ^ n))

/-- INV completes with the complement, and INV twice restores the register. In every state in which the register can be read it becomes (2^W - 1) - D, no other register or byte changes, every flag becomes UNDEF, nothing else changes. Where the active bank exists and the view does not wrap onto itself (State.Fits: under ByteOverlap there are at least W/8 cells), a second INV completes and gives D back. -/
def Obligations.ComplementResult : Prop :=
  let P : Width → (RegIx → Instr) → Prop := fun w i =>
    (∀ a, Updates (fun n d => BitVec.ofNat n (2 ^ n - 1 - d.toNat)) w (.reg a) (i a)) ∧
    ∀ a s d, readReg w a s = .ok d → s.Fits w →
      ∃ t u, exec (i a) s = .next t ∧ exec (i a) t = .next u ∧ readReg w a u = .ok d
  P .w8 .invR8 ∧ P .w16 .invR16 ∧ P .w24 .invR24 ∧ P .w32 .invR32

/-- SL and SR complete with their results in their 8 forms each. With n the amount: for n below W the target becomes (D * 2^n) mod 2^W or D div 2^n; for n of W or more it becomes UNDEF. No other register changes, every flag becomes UNDEF, nothing else changes. -/
def Obligations.ShiftResults : Prop :=
  slForms (Shifts fun n d k => BitVec.ofNat n (d.toNat * 2 ^ k)) ∧ srForms (Shifts fun n d k => BitVec.ofNat n (d.toNat / 2 ^ k))

/-- RL and RR complete with the rotation by the amount modulo W in their 8 forms each. For every amount n the target becomes D rotated left or right by n mod W bits. No other register changes, every flag becomes UNDEF, nothing else changes. -/
def Obligations.RotateResults : Prop :=
  rlForms (Rotates fun _ d k => d.rotateLeft k) ∧ rrForms (Rotates fun _ d k => d.rotateRight k)

/-- SET and RES complete with the bit set or cleared in their 8 forms each. For a bit position n below W the target becomes D | 2^n or D & ((2^W - 1) - 2^n); for n of W or more it becomes UNDEF. No other register changes, every flag becomes UNDEF, nothing else changes. -/
def Obligations.SetResResults : Prop :=
  setForms (Shifts fun n d k => d ||| BitVec.ofNat n (2 ^ k)) ∧
  resForms (Shifts fun n d k => d &&& BitVec.ofNat n (2 ^ n - 1 - 2 ^ k))

/-- BIT completes and reports the tested bit in its 8 forms. For a bit position n below W, FLAG[BIT_FLAG] becomes D[n] (or 1 - D[n] for the sense ZeroTest) and every other flag UNDEF; for n of W or more every flag becomes UNDEF, FLAG[BIT_FLAG] among them. No register and no byte of memory changes. -/
def Obligations.BitTest : Prop :=
  bitForms fun w a amount i => ∀ s d k, readReg w a s = .ok d → readSource .w8 amount s = .ok k →
    ∃ t, exec i s = .next t ∧ Unchanged [.flag] s t ∧
      (k.toNat < w.bits → FlagsUndefBut s.params.bitFlag
        (match s.params.bitSense with | .bitValue => d.getLsbD k.toNat | .zeroTest => !d.getLsbD k.toNat) s t) ∧
      (w.bits ≤ k.toNat → FlagsUndef s t)

/-- GETBITS completes with the bit field in its 8 forms. With the address in the address register and an offset: when every byte of the field is in memory and defined and the value register exists, it gets the field's value; a field past the memory faults, a field in memory with an UNDEF byte faults. No other register changes, memory is unchanged, every flag becomes UNDEF, nothing else changes. -/
def Obligations.GetbitsResults : Prop :=
  getbitsForms fun w a b offset i => ∀ s addr off, readReg .w24 b s = .ok addr → readSource .w8 offset s = .ok off →
    (memSize ≤ lastByte w addr.toNat off.toNat → exec i s = .fault .memOutOfRange) ∧
    (lastByte w addr.toNat off.toNat < memSize →
      (¬ FieldDefined s w addr.toNat off.toNat → exec i s = .fault .readUndefined) ∧
      (FieldDefined s w addr.toNat off.toNat → s.HasReg a →
        ∃ t v, exec i s = .next t ∧ FieldHolds s w addr.toNat off.toNat v ∧ RegWritten w a v s t ∧
          FlagsUndef s t ∧ Unchanged [.banks, .flag] s t))

/-- SETBITS completes with the bit field written in its 8 forms. When every byte of the field is in memory, the instruction completes: in every byte that was defined or is fully covered the field's bits are the value register's; an UNDEF byte covered partly stays UNDEF; every other bit of a defined byte and every other byte is as it was; the field is read back when every touched byte was defined or fully covered. A field past the memory faults. No register changes, every flag becomes UNDEF, nothing else changes. -/
def Obligations.SetbitsResults : Prop :=
  setbitsForms fun w a b offset i => ∀ s addr off v, readReg .w24 b s = .ok addr → readSource .w8 offset s = .ok off →
    readReg w a s = .ok v →
    (memSize ≤ lastByte w addr.toNat off.toNat → exec i s = .fault .memOutOfRange) ∧
    (lastByte w addr.toNat off.toNat < memSize →
      ∃ t, exec i s = .next t ∧ FieldWritten w addr.toNat off.toNat v s t ∧
        (FieldDetermined s w addr.toNat off.toNat → bitRead w addr off t = .ok v) ∧
        FlagsUndef s t ∧ Unchanged [.mem, .flag] s t)

/-- JP and JR set IPO and change nothing else. JP sets IPO to the address or to x24 of the register, zero-extended; the conditional form does so when its flag is 1 and changes nothing when it is 0; JR sets IPO to IPO + sext(off) - 5 modulo 2^32, IPO being past the instruction. A register that does not exist, an UNDEF one and an UNDEF flag fault. -/
def Obligations.JumpResults : Prop :=
  ∀ s : State,
    (∀ addr, exec (.jpImm addr) s = .next { s with ipo := addr.setWidth 32 }) ∧
    (∀ r t, readReg .w24 r s = .ok t → exec (.jpReg r) s = .next { s with ipo := t.setWidth 32 }) ∧
    (∀ r, ¬ s.HasReg r → exec (.jpReg r) s = .fault .regIndexOutOfRange) ∧
    (∀ r, s.HasReg r → s.viewUndef .w24 r = true → exec (.jpReg r) s = .fault .readUndefined) ∧
    (∀ flag addr, readFlag flag s = .ok true → exec (.jpCond flag addr) s = .next { s with ipo := addr.setWidth 32 }) ∧
    (∀ flag addr, readFlag flag s = .ok false → exec (.jpCond flag addr) s = .next s) ∧
    (∀ flag addr, s.flagBitUndef flag = true → exec (.jpCond flag addr) s = .fault .readUndefined) ∧
    (∀ off, exec (.jrRel off) s = .next { s with ipo := s.ipo + off.signExtend 32 - 5 })

/-- CALL and CALLR push IPO and set it. With room on the call stack, a call stores IPO (past the instruction) at CS[SPC], increments SPC, sets IPO to its target and changes nothing else; with SPC = CALL_STACK_DEPTH it faults. The conditional form calls when its flag is 1 and changes nothing when it is 0. A register target that does not exist or is UNDEF and an UNDEF flag fault, with room on the call stack or without. -/
def Obligations.CallResults : Prop :=
  let Called : Word → State → State → Prop := fun target s t =>
    t.ipo = target ∧ t.spc = s.spc + 1 ∧ (s.spc < s.cs.length → t.cs[s.spc]? = some s.ipo) ∧
      (∀ k, k ≠ s.spc → t.cs[k]? = s.cs[k]?) ∧ Unchanged [.cs, .spc, .ipo] s t
  ∀ s : State,
    (s.spc < s.params.callStackDepth →
      (∀ addr, ∃ t, exec (.callImm addr) s = .next t ∧ Called (addr.setWidth 32) s t) ∧
      (∀ r a, readReg .w24 r s = .ok a → ∃ t, exec (.callReg r) s = .next t ∧ Called (a.setWidth 32) s t) ∧
      (∀ flag addr, readFlag flag s = .ok true → ∃ t, exec (.callCond flag addr) s = .next t ∧ Called (addr.setWidth 32) s t) ∧
      (∀ off, ∃ t, exec (.callrRel off) s = .next t ∧ Called (s.ipo + off.signExtend 32 - 5) s t)) ∧
    (s.params.callStackDepth ≤ s.spc →
      (∀ addr, exec (.callImm addr) s = .fault .callStackOverflow) ∧
      (∀ r a, readReg .w24 r s = .ok a → exec (.callReg r) s = .fault .callStackOverflow) ∧
      (∀ flag addr, readFlag flag s = .ok true → exec (.callCond flag addr) s = .fault .callStackOverflow) ∧
      (∀ off, exec (.callrRel off) s = .fault .callStackOverflow)) ∧
    (∀ flag addr, readFlag flag s = .ok false → exec (.callCond flag addr) s = .next s) ∧
    (∀ flag addr, s.flagBitUndef flag = true → exec (.callCond flag addr) s = .fault .readUndefined) ∧
    (∀ r, ¬ s.HasReg r → exec (.callReg r) s = .fault .regIndexOutOfRange) ∧
    (∀ r, s.HasReg r → s.viewUndef .w24 r = true → exec (.callReg r) s = .fault .readUndefined)

/-- RET and RETIF pop the call stack or halt. RET pops the top entry into IPO, or with an empty stack halts with a drawn IPO, and changes nothing else. RETIF does the same when its flag is 1; when it is 0 it changes nothing, or with an empty stack a draw decides between that and the halt. An UNDEF flag faults. -/
def Obligations.ReturnResults : Prop :=
  ∀ s : State, s.spc ≤ s.cs.length →
    (∃ t, exec .ret s = .next t ∧ Returned s t) ∧
    (∀ flag, readFlag flag s = .ok true → ∃ t, exec (.retif flag) s = .next t ∧ Returned s t) ∧
    (∀ flag, readFlag flag s = .ok false → 0 < s.spc → exec (.retif flag) s = .next s) ∧
    (∀ flag, readFlag flag s = .ok false → s.spc = 0 →
      ∃ t, exec (.retif flag) s = .next t ∧ (Unchanged [] s t ∨ Returned s t)) ∧
    (∀ flag, s.flagBitUndef flag = true → exec (.retif flag) s = .fault .readUndefined)

/-- A call and then RET restore IPO and SPC. From every state with room on a call stack of full size, each kind of call completes, RET after it completes, and leaves IPO at the instruction after the call, SPC as before, and every register, flag and byte of memory as before. -/
def Obligations.CallThenReturn : Prop :=
  ∀ (s : State) (i : Instr), s.spc < s.params.callStackDepth → s.cs.length = s.params.callStackDepth →
    ((∃ addr, i = .callImm addr) ∨ (∃ r a, readReg .w24 r s = .ok a ∧ i = .callReg r) ∨
      (∃ flag addr, readFlag flag s = .ok true ∧ i = .callCond flag addr) ∨ ∃ off, i = .callrRel off) →
    ∃ t u, exec i s = .next t ∧ exec .ret t = .next u ∧ u.ipo = s.ipo ∧ u.spc = s.spc ∧ Unchanged [.cs] s u

/-- SCP completes with its six flags in all 32 forms. With a and b the signed operands: Zero and Equal are a = b, Overflow is 0, GreaterThan is a > b, LessThan is a < b, SignNegative is a - b < 0 where the top bit of the W-bit difference agrees and UNDEF where it does not (readFlag faults for it); the other flags are as they were, an UNDEF one UNDEF, and no register, no byte of memory and nothing else changes. -/
def Obligations.CompareResults : Prop :=
  scpForms fun w first second i => ∀ s d x, readPlace w first s = .ok d → readSource w second s = .ok x →
    ∃ t, exec i s = .next t ∧ Unchanged [.flag] s t ∧
      readFlag 0 t = .ok (decide (d.toInt - x.toInt = 0)) ∧
      (decide (d.toInt - x.toInt < 0) = (d - x).msb → readFlag 2 t = .ok (decide (d.toInt - x.toInt < 0))) ∧
      (decide (d.toInt - x.toInt < 0) ≠ (d - x).msb → readFlag 2 t = .error .readUndefined) ∧
      readFlag 3 t = .ok false ∧ readFlag 5 t = .ok (decide (d.toInt = x.toInt)) ∧
      readFlag 6 t = .ok (decide (d.toInt > x.toInt)) ∧ readFlag 7 t = .ok (decide (d.toInt < x.toInt)) ∧
      ∀ n : FlagIx, n ∉ [(0 : FlagIx), 2, 3, 5, 6, 7] → t.flagBit n = s.flagBit n ∧ t.flagBitUndef n = s.flagBitUndef n

/-- SQR and CBR complete in their 13 forms each, with the exact root where there is one. In every state in which the input can be read and the destination can take the result, the form completes with the function's value of the input in the destination (through the range check and its flag for an integer register), nothing else changed. Where the exact square root (of a value not below 0) or cube root is a binary32 value, the function gives that value. Values are counted in units of 2^-149. -/
def Obligations.RootResults : Prop :=
  sqrForms (FloatComputes fsqrt) ∧ cbrForms (FloatComputes fcbrt) ∧
  (∀ x r : Word, isFinite x = true → isFinite r = true → 0 ≤ floatInt x → 0 ≤ floatInt r →
    floatInt r ^ 2 = floatInt x * 2 ^ 149 → isFinite (fsqrt x) = true ∧ floatInt (fsqrt x) = floatInt r) ∧
  (∀ x r : Word, isFinite x = true → isFinite r = true → floatInt r ^ 3 = floatInt x * 2 ^ 298 →
    isFinite (fcbrt x) = true ∧ floatInt (fcbrt x) = floatInt r)

/-- POW completes in its 13 forms, with the old destination as base and the laws of the spec. In every state in which the old destination and the input can be read, the form completes with the power in the destination, nothing else changed. The power is y for the exponent 1.0 and finite y, and exact where base, exponent and result are integers of at most 2^24 in magnitude (the bound is the model's choice, log 17; 0 to the power 0 is left open). -/
def Obligations.PowerResults : Prop :=
  powForms (FloatComputes₂ fpow) ∧
  (∀ y : Word, isFinite y = true → fpow y 0x3F800000 = y) ∧
  (∀ (y x : Word) (a : Int) (b : Nat), isFinite y = true → isFinite x = true → floatInt y = a * 2 ^ 149 →
    floatInt x = b * 2 ^ 149 → |a| ≤ 2 ^ 24 → b ≤ 2 ^ 24 → |a ^ b| ≤ 2 ^ 24 → (a ≠ 0 ∨ b ≠ 0) →
    isFinite (fpow y x) = true ∧ floatInt (fpow y x) = a ^ b * 2 ^ 149) ∧
  (∀ (y x : Word) (a : Int) (b : Nat), isFinite y = true → isFinite x = true → floatInt y = a * 2 ^ 149 →
    floatInt x = -(b : Int) * 2 ^ 149 → (a = 1 ∨ a = -1) → b ≤ 2 ^ 24 → 0 < b →
    isFinite (fpow y x) = true ∧ floatInt (fpow y x) = a ^ b * 2 ^ 149)

/-- SIN completes in its 13 forms. In every state in which the input can be read and the destination can take the result, the form completes with the function's value of the input in the destination, nothing else changed; the value of a zero is that zero. -/
def Obligations.SineResults : Prop :=
  sinForms (FloatComputes fsin) ∧ ∀ x : Word, floatInt x = 0 → fsin x = x

/-- FLOOR completes in its 13 forms with the largest integral value not above the input. In every state in which the input can be read and the destination can take the result, the form completes with the floor of the input in the destination, nothing else changed. The floor of a finite value is exact (in units of 2^-149); a NaN gives a NaN; infinities and zeros give themselves. -/
def Obligations.FloorResults : Prop :=
  floorForms (FloatComputes ffloor) ∧
  (∀ x : Word, isFinite x = true →
    isFinite (ffloor x) = true ∧ floatInt (ffloor x) = floatInt x / 2 ^ 149 * 2 ^ 149) ∧
  (∀ x : Word, isNaN x = true → isNaN (ffloor x) = true) ∧
  (∀ x : Word, (isFinite x = false ∧ isNaN x = false) ∨ floatInt x = 0 → ffloor x = x)

/-- ROUND completes in its 13 forms with an integral value nearest to the input. In every state in which the input can be read and the destination can take the result, the form completes with the rounded input in the destination, nothing else changed. For a finite input the result is finite, integral, and at most one half away. -/
def Obligations.RoundResults : Prop :=
  roundForms (FloatComputes fround) ∧
  ∀ x : Word, isFinite x = true →
    isFinite (fround x) = true ∧ (2 ^ 149 : Int) ∣ floatInt (fround x) ∧ 2 * |floatInt (fround x) - floatInt x| ≤ 2 ^ 149

/-- How a float form reads its input. A float register gives its pattern, an UNDEF one faults; memory gives the four bytes at the effective address as a raw pattern; an integer register gives a pattern, which for an unsigned value below 2^24 is exactly that value. -/
def Obligations.FloatConversions : Prop :=
  ∀ (s : State),
    (∀ j, s.floatUndef j = false → readFloat (.freg j) s = .ok (s.float j)) ∧
    (∀ j, s.floatUndef j = true → readFloat (.freg j) s = .error .readUndefined) ∧
    (∀ m a, m.address s = .ok a → readFloat (.mem m) s = readMem .w32 a s) ∧
    (∀ w x d, readReg w x s = .ok d → ∃ p, readFloat (.ireg w x) s = .ok p ∧
      (d.toNat < 2 ^ 24 → isFinite p = true ∧ floatInt p = d.toNat * 2 ^ 149))

/-- MEMC completes with the copied block in its 8 forms, in both overlap settings. When both blocks lie in memory and the source block is defined, byte k of the destination block becomes byte k of the source block as it was; under ForwardBytewise with the destination inside the source block, byte k mod (dst - src) of it. Every other byte is as it was, every flag becomes UNDEF, nothing else changes. A block past the memory faults; so does an undefined source byte. -/
def Obligations.BlockCopy : Prop :=
  memcForms fun src dst len i => ∀ s a d n, readSource .w24 src s = .ok a → readSource .w24 dst s = .ok d →
    readSource .w24 len s = .ok n →
    (¬ BlockFits a.toNat n.toNat ∨ ¬ BlockFits d.toNat n.toNat → exec i s = .fault .memOutOfRange) ∧
    (BlockFits a.toNat n.toNat → BlockFits d.toNat n.toNat →
      ((∃ k < n.toNat, s.byte? (a.toNat + k) = none) → exec i s = .fault .readUndefined) ∧
      ((∀ k < n.toNat, (s.byte? (a.toNat + k)).isSome) →
        ∃ t, exec i s = .next t ∧
          (∀ k < n.toNat, t.byte? (d.toNat + k) =
            if s.params.memcOverlap = .forwardBytewise ∧ a.toNat < d.toNat
            then s.byte? (a.toNat + k % (d.toNat - a.toNat)) else s.byte? (a.toNat + k)) ∧
          (∀ q, (q < d.toNat ∨ d.toNat + n.toNat ≤ q) → t.byte? q = s.byte? q) ∧
          FlagsUndef s t ∧ Unchanged [.mem, .flag] s t))

/-- MEMF completes with the filled block in its 8 forms. When the block lies in memory every byte of it becomes the value, every other byte is as it was, every flag becomes UNDEF, nothing else changes; a block past the memory faults. -/
def Obligations.BlockFill : Prop :=
  memfForms fun val addr len i => ∀ s v a n, readSource .w8 val s = .ok v → readSource .w24 addr s = .ok a →
    readSource .w24 len s = .ok n →
    (¬ BlockFits a.toNat n.toNat → exec i s = .fault .memOutOfRange) ∧
    (BlockFits a.toNat n.toNat →
      ∃ t, exec i s = .next t ∧ (∀ k < n.toNat, t.byte? (a.toNat + k) = some v) ∧
        (∀ q, (q < a.toNat ∨ a.toNat + n.toNat ≤ q) → t.byte? q = s.byte? q) ∧
        FlagsUndef s t ∧ Unchanged [.mem, .flag] s t)

/-- FIND of a byte completes with the first address that holds it. With n defined bytes different from the value at the start and the value after them, the address register gets start + n; with every byte to the top of memory defined and different, it gets UNDEF; an undefined byte before the value faults. No other register changes, memory is unchanged, every flag becomes UNDEF, nothing else changes. -/
def Obligations.FindByteResults : Prop :=
  let P : RegIx → Source .w8 → Instr → Prop := fun a value i => ∀ s (d : Addr) b, readReg .w24 a s = .ok d → readSource .w8 value s = .ok b →
    let start := d.toNat
    let Skips : Nat → Prop := fun n => ∀ k < n, ∃ c, s.byte? (start + k) = some c ∧ c ≠ b
    (∀ n, Skips n → start + n < memSize → s.byte? (start + n) = some b →
      ∃ t, exec i s = .next t ∧ RegWritten .w24 a (BitVec.ofNat 24 (start + n)) s t ∧ FlagsUndef s t ∧
        Unchanged [.banks, .flag] s t) ∧
    (Skips (memSize - start) → ∃ t, exec i s = .next t ∧ RegUndef .w24 a s t ∧ FlagsUndef s t ∧
      Unchanged [.banks, .flag] s t) ∧
    (∀ n, Skips n → start + n < memSize → s.byte? (start + n) = none → exec i s = .fault .readUndefined)
  (∀ a n, P a (.imm n) (.findBI a n)) ∧ ∀ a b, P a (.place (.reg b)) (.findBR a b)

/-- FIND of a zero-terminated pattern completes with the first address where it stands. For a pattern of nonzero bytes that a zero byte ends: with a difference at each of n addresses from the start on and the pattern after them, the address register gets start + n; with a difference at every address where the pattern would fit, it gets UNDEF. No other register changes, memory is unchanged, every flag becomes UNDEF, nothing else changes. A pattern that no zero byte ends faults, and so does an UNDEF byte that its scan meets before the zero byte, whatever the address register holds; after the scan, an address register that cannot be read faults, and so does an UNDEF byte that a comparison meets before the first difference. -/
def Obligations.FindPatternResults : Prop :=
  let P : RegIx → MemRef → Instr → Prop := fun a pattern i => ∀ s (p : Addr), pattern.address s = .ok p →
    (∀ (d : Addr) (pat : List Byte), readReg .w24 a s = .ok d → (∀ c ∈ pat, c ≠ 0) → BytesAt s p.toNat (pat ++ [0]) →
      p.toNat + pat.length < memSize →
      let start := d.toNat
      (∀ n, (∀ k < n, DiffersAt s (start + k) pat) → BytesAt s (start + n) pat → start + n + pat.length ≤ memSize →
        ∃ t, exec i s = .next t ∧ RegWritten .w24 a (BitVec.ofNat 24 (start + n)) s t ∧ FlagsUndef s t ∧
          Unchanged [.banks, .flag] s t) ∧
      (∀ n, (∀ k < n, DiffersAt s (start + k) pat) → UndefinedAt s (start + n) pat → start + n + pat.length ≤ memSize →
        exec i s = .fault .readUndefined) ∧
      ((∀ k, start + k + pat.length ≤ memSize → DiffersAt s (start + k) pat) →
        ∃ t, exec i s = .next t ∧ RegUndef .w24 a s t ∧ FlagsUndef s t ∧ Unchanged [.banks, .flag] s t)) ∧
    (∀ pat : List Byte, (∀ c ∈ pat, c ≠ 0) → BytesAt s p.toNat (pat ++ [0]) → p.toNat + pat.length < memSize →
      ∀ e, readReg .w24 a s = .error e → exec i s = .fault e) ∧
    (∀ n, (∀ k < n, ∃ c, s.byte? (p.toNat + k) = some c ∧ c ≠ 0) → p.toNat + n < memSize → s.byte? (p.toNat + n) = none →
      exec i s = .fault .readUndefined) ∧
    ((∀ q, p.toNat ≤ q → q < memSize → ∃ c, s.byte? q = some c ∧ c ≠ 0) → exec i s = .fault .memOutOfRange)
  (∀ a addr, P a (.abs addr) (.findPA a addr)) ∧ ∀ a b, P a (.reg b) (.findPR a b)

/-- LDREGS completes with the register range loaded. With lo the smaller register number and n = |r1 - r2| + 1: when the block lies in memory, every register of the range exists and every byte of the block is defined, x8[lo + k] becomes byte k of the block, every view apart from these registers, every float register and every other bank is as it was, memory is unchanged, every flag becomes UNDEF, nothing else changes. A block past the memory, an undefined byte and a register that does not exist fault, in this order (every byte is read before the first register write). -/
def Obligations.LoadRegisters : Prop :=
  let P : RegIx → RegIx → MemRef → Instr → Prop := fun r1 r2 block i => ∀ s addr, block.address s = .ok addr →
    let lo := min r1.toNat r2.toNat
    let hi := max r1.toNat r2.toNat
    let n := hi - lo + 1
    (memSize < addr.toNat + n → exec i s = .fault .memOutOfRange) ∧
    (addr.toNat + n ≤ memSize →
      ((∃ k < n, s.byte? (addr.toNat + k) = none) → exec i s = .fault .readUndefined) ∧
      ∀ bs : List Byte, bs.length = n → BytesAt s addr.toNat bs →
        (s.params.numIntRegs ≤ hi → exec i s = .fault .regIndexOutOfRange) ∧
        (hi < s.params.numIntRegs → ∃ t, exec i s = .next t ∧
          (s.bank < s.banks.length → ∀ k (h : k < bs.length), readReg .w8 (BitVec.ofNat 5 (lo + k)) t = .ok bs[k]) ∧
          (∀ w j, (∀ k < n, Apart s.params .w8 (BitVec.ofNat 5 (lo + k)) w j) →
            t.view w j = s.view w j ∧ t.viewUndef w j = s.viewUndef w j) ∧
          (∀ j, t.float j = s.float j ∧ t.floatUndef j = s.floatUndef j) ∧ OtherBanksSame s t ∧ FlagsUndef s t ∧
          Unchanged [.banks, .flag] s t))
  (∀ a b addr, P a b (.abs addr) (.ldregsMa a b addr)) ∧ ∀ a b c, P a b (.reg c) (.ldregsMr a b c)

/-- STREGS completes with the register range stored. With lo the smaller register number and n = |r1 - r2| + 1: when the block lies in memory and every register of the range can be read, byte k of the block becomes x8[lo + k], every other byte is as it was, no register changes, every flag becomes UNDEF, nothing else changes. A block past the memory faults; then the first register of the range that does not exist or is UNDEF, with its fault. -/
def Obligations.StoreRegisters : Prop :=
  let P : RegIx → RegIx → MemRef → Instr → Prop := fun r1 r2 block i => ∀ s addr, block.address s = .ok addr →
    let lo := min r1.toNat r2.toNat
    let hi := max r1.toNat r2.toNat
    let n := hi - lo + 1
    (memSize < addr.toNat + n → exec i s = .fault .memOutOfRange) ∧
    (addr.toNat + n ≤ memSize → ∀ k e, k < n → (∀ j < k, ∃ b, readReg .w8 (BitVec.ofNat 5 (lo + j)) s = .ok b) →
      readReg .w8 (BitVec.ofNat 5 (lo + k)) s = .error e → exec i s = .fault e) ∧
    (addr.toNat + n ≤ memSize → ∀ bs : List Byte, bs.length = n →
      (∀ k (h : k < bs.length), readReg .w8 (BitVec.ofNat 5 (lo + k)) s = .ok bs[k]) →
      ∃ t, exec i s = .next t ∧ BytesAt t addr.toNat bs ∧
        (∀ q, (q < addr.toNat ∨ addr.toNat + n ≤ q) → t.byte? q = s.byte? q) ∧
        FlagsUndef s t ∧ Unchanged [.mem, .flag] s t)
  (∀ a b addr, P a b (.abs addr) (.stregsMa a b addr)) ∧ ∀ a b c, P a b (.reg c) (.stregsMr a b c)

/-- EX completes: both reads, then the write to A, then the write to B. When both registers can be read, the instruction completes as a write of x[B] to A followed by a write of the old x[A] to B, no other register changed; every flag becomes UNDEF, nothing else changes. Where the active bank exists and the views neither wrap onto themselves (State.Fits) nor share storage, A then reads as the old x[B] and B as the old x[A]. -/
def Obligations.ExchangeResults : Prop :=
  let P : Width → (RegIx → RegIx → Instr) → Prop := fun w i => ∀ a b s x y, readReg w a s = .ok x → readReg w b s = .ok y →
    ∃ t u, exec (i a b) s = .next t ∧ RegWritten w a y s u ∧ Unchanged [.banks] s u ∧
      RegWritten w b x u t ∧ FlagsUndef s t ∧ Unchanged [.banks, .flag] s t ∧
      (s.Fits w → Apart s.params w b w a → readReg w a t = .ok y ∧ readReg w b t = .ok x)
  P .w8 .ex8 ∧ P .w16 .ex16 ∧ P .w24 .ex24 ∧ P .w32 .ex32

/-- BANKSEL completes with BANK set, or faults for a bank that does not exist. For an index below NUM_BANKS, BANK becomes the index, no register of any bank changes, every flag becomes UNDEF, nothing else changes; for any other index the instruction faults. -/
def Obligations.BankSelectResults : Prop :=
  let P : Source .w8 → Instr → Prop := fun index i => ∀ s n, readSource .w8 index s = .ok n →
    (n.toNat < s.params.numBanks → ∃ t, exec i s = .next t ∧ t.bank = n.toNat ∧ FlagsUndef s t ∧
      Unchanged [.bank, .flag] s t) ∧
    (s.params.numBanks ≤ n.toNat → exec i s = .fault .bankOutOfRange)
  (∀ n, P (.imm n) (.bankselI n)) ∧ ∀ r, P (.place (.reg r)) (.bankselR r)

/-- RAND completes with a drawn value in the register, its seed forms with some state of RNG. RAND of a register that exists writes it with a draw, whatever that is; a seed form changes RNG only. No other register changes, every flag becomes UNDEF, nothing else changes. That the draw is a function of RNG and the draw counter, and that RAND leaves RNG as it is, are the model's choice (DESIGN CHOICE, log 8): R383 says only that the value is a draw. -/
def Obligations.RandomResults : Prop :=
  let P : Width → (RegIx → Instr) → Prop := fun w i => ∀ a s, s.HasReg a →
    ∃ t, exec (i a) s = .next t ∧ RegWritten w a ((Config.randValue s.rng s.draws).setWidth w.bits) s t ∧
      s.draws < t.draws ∧ FlagsUndef s t ∧ Unchanged [.banks, .flag] s t
  let Q : Source .w32 → Instr → Prop := fun seed i => ∀ s v, readSource .w32 seed s = .ok v →
    ∃ t, exec i s = .next t ∧ FlagsUndef s t ∧ Unchanged [.rng, .flag] s t
  P .w8 .rand8 ∧ P .w16 .rand16 ∧ P .w24 .rand24 ∧ P .w32 .rand32 ∧
  (∀ seed, Q (.imm seed) (.randSeedI seed)) ∧ ∀ a, Q (.place (.reg a)) (.randSeedR a)

/-- WAIT completes with a host event. WAIT records the event with its millisecond count, every flag becomes UNDEF, nothing else changes. -/
def Obligations.WaitResults : Prop :=
  let P : Source .w16 → Instr → Prop := fun count i => ∀ s ms, readSource .w16 count s = .ok ms →
    ∃ t, exec i s = .next t ∧ t.events = .wait ms :: s.events ∧ FlagsUndef s t ∧ Unchanged [.events, .flag] s t
  (∀ ms, P (.imm ms) (.waitI ms)) ∧ ∀ r, P (.place (.reg r)) (.waitR r)

/-- SETVAR and GETVAR complete and GETVAR reads what SETVAR wrote. SETVAR gives the key its value and leaves every other key; GETVAR puts a written key's value in the register and faults for a key never written. No other register changes, every flag becomes UNDEF, nothing else changes. Where the active bank exists and a 32-bit view does not wrap onto itself (State.Fits), GETVAR after SETVAR of the same key completes and the register reads as the value written. -/
def Obligations.VariableResults : Prop :=
  let P : Source .w32 → Source .w32 → Instr → Prop := fun index value i => ∀ s k v,
    readSource .w32 index s = .ok k → readSource .w32 value s = .ok v →
    ∃ t, exec i s = .next t ∧ Store.get t.hmem k.toNat = some v ∧
      (∀ k', k' ≠ k.toNat → Store.get t.hmem k' = Store.get s.hmem k') ∧ FlagsUndef s t ∧ Unchanged [.hmem, .flag] s t
  let Q : RegIx → Source .w32 → Instr → Prop := fun a index i => ∀ s k, readSource .w32 index s = .ok k →
    (Store.get s.hmem k.toNat = none → exec i s = .fault .hmemUnwritten) ∧
    ∀ v, Store.get s.hmem k.toNat = some v → s.HasReg a →
      ∃ t, exec i s = .next t ∧ RegWritten .w32 a v s t ∧ FlagsUndef s t ∧ Unchanged [.banks, .flag] s t
  (∀ k v, P (.imm k) (.imm v) (.setvarII k v)) ∧ (∀ a v, P (.place (.reg a)) (.imm v) (.setvarRI a v)) ∧
  (∀ k b, P (.imm k) (.place (.reg b)) (.setvarIR k b)) ∧
  (∀ a b, P (.place (.reg a)) (.place (.reg b)) (.setvarRR a b)) ∧
  (∀ a k, Q a (.imm k) (.getvarI a k)) ∧ (∀ a b, Q a (.place (.reg b)) (.getvarR a b)) ∧
  ∀ s k v a, s.HasReg a → s.Fits .w32 →
    ∃ t u, exec (.setvarII k v) s = .next t ∧ exec (.getvarI a k) t = .next u ∧ readReg .w32 a u = .ok v

/-- SMUL with a zero source completes with a report; with any other source it is refused. With a zero source the runtime error is recorded and nothing else changes: no register, no flag, no byte. With any other source the model refuses by name. The destination is not accessed. -/
def Obligations.SmulResults : Prop :=
  let P : (w : Width) → Source w → Instr → Prop := fun w src i => ∀ s x, readSource w src s = .ok x →
    (x.toNat = 0 → ∃ t, exec i s = .next t ∧ t.events = .runtimeErrorSmul :: s.events ∧ Unchanged [.events] s t) ∧
    (x.toNat ≠ 0 → exec i s = .refused .semanticsNotInSource)
  (∀ a b, P .w8 (.place (.reg b)) (.smulRR8 a b)) ∧ (∀ a b, P .w16 (.place (.reg b)) (.smulRR16 a b)) ∧
  (∀ a b, P .w24 (.place (.reg b)) (.smulRR24 a b)) ∧ (∀ a b, P .w32 (.place (.reg b)) (.smulRR32 a b)) ∧
  (∀ a imm, P .w8 (.imm imm) (.smulRI8 a imm)) ∧ (∀ a imm, P .w16 (.imm imm) (.smulRI16 a imm)) ∧
  (∀ a imm, P .w24 (.imm imm) (.smulRI24 a imm)) ∧ (∀ a imm, P .w32 (.imm imm) (.smulRI32 a imm))

/-- PLAY is refused. In every state PLAY ends in the refusal unknownEncoding: its operand layout and parameters are not in the source. -/
def Obligations.PlayIsRefused : Prop :=
  ∀ s : State, exec .play s = .refused .unknownEncoding

/-- VCL and VDL complete with a host event, and the host footprint of memory becomes undefined. The event is recorded with its byte; every byte of HOST_MEM_FOOTPRINT becomes undefined, every other byte is as it was; every flag becomes UNDEF; no register and nothing else changes. -/
def Obligations.GraphicsResults : Prop :=
  let P : (Byte → HostEvent) → Source .w8 → Instr → Prop := fun event src i => ∀ s b, readSource .w8 src s = .ok b →
    ∃ t, exec i s = .next t ∧ t.events = event b :: s.events ∧
      (∀ q, (∃ r ∈ s.params.hostMemFootprint, r.1 ≤ q ∧ q ≤ r.2) → t.byte? q = none) ∧
      (∀ q, ¬ (∃ r ∈ s.params.hostMemFootprint, r.1 ≤ q ∧ q ≤ r.2) → t.byte? q = s.byte? q) ∧
      FlagsUndef s t ∧ Unchanged [.mem, .events, .flag] s t
  (∀ n, P .manualClearBackBuffer (.imm n) (.vclI n)) ∧ (∀ r, P .manualClearBackBuffer (.place (.reg r)) (.vclR r)) ∧
  (∀ n, P .manualUpdateBackBuffer (.imm n) (.vdlI n)) ∧ ∀ r, P .manualUpdateBackBuffer (.place (.reg r)) (.vdlR r)

/-- INT completes with its host event in some good state. INT records the event with its number, argument and register index; the state after it keeps the parameters and the record and meets the machine's invariant when BANK was a bank, and is otherwise a free state. This shape is the model's choice (DESIGN CHOICE, log 14): the default of R393 relates the state before to every state. -/
def Obligations.InterruptResults : Prop :=
  ∀ (r : RegIx) (n arg : Byte) (s : State),
    ∃ t, exec (.int r n arg) s = .next t ∧ t.events = .interrupt n arg r :: s.events ∧ t.params = s.params ∧
      (s.bank < s.params.numBanks → t.Inv)

/-- BREAK halts the machine. BREAK sets RUNNING to false, leaves IPO a draw and changes nothing else: no flag, no register, no byte. -/
def Obligations.BreakHalts : Prop :=
  ∀ s : State, ∃ t, exec .brk s = .next t ∧ t.running = false ∧ Drawn t.ipo s t ∧ Unchanged [.running, .ipo] s t

end
end

