-- ==== Sys2Proof/Laws/Bytes.lean ====
section
/-! SUPPORT. Big-endian bytes (20_memory.md R83, R84): the bytes of a number and the number of its bytes. -/

namespace Sys2Proof

@[simp] theorem natToBe_length (n v : Nat) : (natToBe n v).length = n := by
  induction n generalizing v with
  | zero => rfl
  | succ n ih => simp [natToBe, ih]

@[simp] theorem beToNat_nil : beToNat [] = 0 := rfl

theorem beToNat_concat (bs : List Byte) (b : Byte) : beToNat (bs ++ [b]) = beToNat bs * 256 + b.toNat := by
  simp [beToNat]

theorem beToNat_lt (bs : List Byte) : beToNat bs < 256 ^ bs.length := by
  induction bs using List.reverseRecOn with
  | nil => simp
  | append_singleton bs b ih =>
    rw [beToNat_concat, List.length_append, List.length_singleton, Nat.pow_succ]
    have := b.isLt
    omega

theorem beToNat_natToBe (n v : Nat) : beToNat (natToBe n v) = v % 256 ^ n := by
  induction n generalizing v with
  | zero => simp [natToBe, Nat.mod_one]
  | succ n ih =>
    have h : v % 256 ^ (n + 1) = v % 256 + 256 * (v / 256 % 256 ^ n) := by rw [Nat.pow_succ', Nat.mod_mul]
    rw [natToBe, beToNat_concat, ih, BitVec.toNat_ofNat, h]
    omega

theorem natToBe_beToNat (bs : List Byte) : natToBe bs.length (beToNat bs) = bs := by
  induction bs using List.reverseRecOn with
  | nil => rfl
  | append_singleton bs b ih =>
    rw [beToNat_concat, List.length_append, List.length_singleton, natToBe]
    have := b.isLt
    have h : (beToNat bs * 256 + b.toNat) / 256 = beToNat bs := by omega
    rw [h, ih]
    congr 2
    apply BitVec.eq_of_toNat_eq
    rw [BitVec.toNat_ofNat]
    omega

/-- Byte `k` of `natToBe n v`, the first the most significant. -/
theorem natToBe_getElem (n v k : Nat) (h : k < (natToBe n v).length) :
    (natToBe n v)[k] = BitVec.ofNat 8 (v / 256 ^ (n - 1 - k)) := by
  induction n generalizing v with
  | zero => simp [natToBe] at h
  | succ n ih =>
    simp only [natToBe_length] at h
    simp only [natToBe]
    by_cases hk : k < n
    · rw [List.getElem_append_left (by simpa using hk), ih _ (by simpa using hk), Nat.div_div_eq_div_mul, ← Nat.pow_succ']
      congr 3
      omega
    · have : k = n := by omega
      subst this
      simp

theorem Width.bits_eq (w : Width) : w.bits = 8 * w.bytes := by cases w <;> rfl

theorem Width.bytes_pos (w : Width) : 0 < w.bytes := by cases w <;> decide

theorem Width.bytes_le (w : Width) : w.bytes ≤ 4 := by cases w <;> decide

theorem Width.pow_bits (w : Width) : 2 ^ w.bits = 256 ^ w.bytes := by cases w <;> decide

/-- Byte `k` of the bytes of a `W`-bit value (20_memory.md R84). -/
theorem valueByte (w : Width) (v : BitVec w.bits) (k : Nat) (h : k < w.bytes) :
    (natToBe w.bytes v.toNat)[k]'(by simpa using h) = v.extractLsb' (w.bits - 8 - 8 * k) 8 := by
  rw [natToBe_getElem]
  apply BitVec.eq_of_toNat_eq
  rw [BitVec.toNat_ofNat, BitVec.extractLsb'_toNat, Nat.shiftRight_eq_div_pow]
  have h256 : (256 : Nat) = 2 ^ 8 := rfl
  rw [h256, ← Nat.pow_mul]
  have he : 8 * (w.bytes - 1 - k) = w.bits - 8 - 8 * k := by rw [Width.bits_eq]; omega
  rw [he]

/-- A list of bytes that are the bytes of a value spells the value. -/
theorem ofNat_beToNat_eq (w : Width) (v : BitVec w.bits) (bs : List Byte) (hl : bs.length = w.bytes)
    (h : ∀ k (hk : k < bs.length), bs[k] = v.extractLsb' (w.bits - 8 - 8 * k) 8) :
    BitVec.ofNat w.bits (beToNat bs) = v := by
  have hb : bs = natToBe w.bytes v.toNat := by
    apply List.ext_getElem (by simp [hl])
    intro k h1 h2
    rw [h k h1, valueByte w v k (by omega)]
  rw [hb, beToNat_natToBe, ← Width.pow_bits]
  apply BitVec.eq_of_toNat_eq
  rw [BitVec.toNat_ofNat, Nat.mod_mod, Nat.mod_eq_of_lt v.isLt]

/-- The bytes of the value a list of bytes spells are that list. -/
theorem extract_ofNat_beToNat (w : Width) (bs : List Byte) (hl : bs.length = w.bytes) (k : Nat) (hk : k < bs.length) :
    (BitVec.ofNat w.bits (beToNat bs)).extractLsb' (w.bits - 8 - 8 * k) 8 = bs[k] := by
  rw [← valueByte w _ k (by omega)]
  have h : (BitVec.ofNat w.bits (beToNat bs)).toNat = beToNat bs := by
    rw [BitVec.toNat_ofNat]
    apply Nat.mod_eq_of_lt
    rw [Width.pow_bits, ← hl]
    exact beToNat_lt bs
  simp only [h, ← hl, natToBe_beToNat]

end Sys2Proof
end

