-- ==== Sys2Proof/Laws/State.lean ====
section
/-! SUPPORT. One lemma for each field of `State` after each named update: what it holds, so that no later proof unfolds an
update. The lemmas about what a register view holds are in `Laws/Registers.lean`. -/

namespace Sys2Proof.Machine

section tick
variable (s : State)

@[simp] theorem State.tick_params : s.tick.params = s.params := rfl
@[simp] theorem State.tick_banks : s.tick.banks = s.banks := rfl
@[simp] theorem State.tick_bank : s.tick.bank = s.bank := rfl
@[simp] theorem State.tick_flag : s.tick.flag = s.flag := rfl
@[simp] theorem State.tick_flagUndef : s.tick.flagUndef = s.flagUndef := rfl
@[simp] theorem State.tick_ipo : s.tick.ipo = s.ipo := rfl
@[simp] theorem State.tick_spc : s.tick.spc = s.spc := rfl
@[simp] theorem State.tick_cs : s.tick.cs = s.cs := rfl
@[simp] theorem State.tick_hmem : s.tick.hmem = s.hmem := rfl
@[simp] theorem State.tick_running : s.tick.running = s.running := rfl
@[simp] theorem State.tick_rng : s.tick.rng = s.rng := rfl
@[simp] theorem State.tick_mem : s.tick.mem = s.mem := rfl
@[simp] theorem State.tick_draws : s.tick.draws = s.draws + 1 := rfl
@[simp] theorem State.tick_events : s.tick.events = s.events := rfl

end tick

section setActiveBank
variable (s : State) (b : Bank)

@[simp] theorem State.setActiveBank_params : (s.setActiveBank b).params = s.params := rfl
@[simp] theorem State.setActiveBank_banks : (s.setActiveBank b).banks = s.banks.set s.bank b := rfl
@[simp] theorem State.setActiveBank_bank : (s.setActiveBank b).bank = s.bank := rfl
@[simp] theorem State.setActiveBank_flag : (s.setActiveBank b).flag = s.flag := rfl
@[simp] theorem State.setActiveBank_flagUndef : (s.setActiveBank b).flagUndef = s.flagUndef := rfl
@[simp] theorem State.setActiveBank_ipo : (s.setActiveBank b).ipo = s.ipo := rfl
@[simp] theorem State.setActiveBank_spc : (s.setActiveBank b).spc = s.spc := rfl
@[simp] theorem State.setActiveBank_cs : (s.setActiveBank b).cs = s.cs := rfl
@[simp] theorem State.setActiveBank_hmem : (s.setActiveBank b).hmem = s.hmem := rfl
@[simp] theorem State.setActiveBank_running : (s.setActiveBank b).running = s.running := rfl
@[simp] theorem State.setActiveBank_rng : (s.setActiveBank b).rng = s.rng := rfl
@[simp] theorem State.setActiveBank_mem : (s.setActiveBank b).mem = s.mem := rfl
@[simp] theorem State.setActiveBank_draws : (s.setActiveBank b).draws = s.draws := rfl
@[simp] theorem State.setActiveBank_events : (s.setActiveBank b).events = s.events := rfl

end setActiveBank

section putView
variable (s : State) (w : Width) (i : RegIx) (v : BitVec w.bits) (u : Bool)

@[simp] theorem State.putView_params : (s.putView w i v u).params = s.params := by
  unfold State.putView; dsimp only; split
  · rfl
  · split <;> rfl
@[simp] theorem State.putView_bank : (s.putView w i v u).bank = s.bank := by
  unfold State.putView; dsimp only; split
  · rfl
  · split <;> rfl
@[simp] theorem State.putView_flag : (s.putView w i v u).flag = s.flag := by
  unfold State.putView; dsimp only; split
  · rfl
  · split <;> rfl
@[simp] theorem State.putView_flagUndef : (s.putView w i v u).flagUndef = s.flagUndef := by
  unfold State.putView; dsimp only; split
  · rfl
  · split <;> rfl
@[simp] theorem State.putView_ipo : (s.putView w i v u).ipo = s.ipo := by
  unfold State.putView; dsimp only; split
  · rfl
  · split <;> rfl
@[simp] theorem State.putView_spc : (s.putView w i v u).spc = s.spc := by
  unfold State.putView; dsimp only; split
  · rfl
  · split <;> rfl
@[simp] theorem State.putView_cs : (s.putView w i v u).cs = s.cs := by
  unfold State.putView; dsimp only; split
  · rfl
  · split <;> rfl
@[simp] theorem State.putView_hmem : (s.putView w i v u).hmem = s.hmem := by
  unfold State.putView; dsimp only; split
  · rfl
  · split <;> rfl
@[simp] theorem State.putView_running : (s.putView w i v u).running = s.running := by
  unfold State.putView; dsimp only; split
  · rfl
  · split <;> rfl
@[simp] theorem State.putView_rng : (s.putView w i v u).rng = s.rng := by
  unfold State.putView; dsimp only; split
  · rfl
  · split <;> rfl
@[simp] theorem State.putView_mem : (s.putView w i v u).mem = s.mem := by
  unfold State.putView; dsimp only; split
  · rfl
  · split <;> rfl
@[simp] theorem State.putView_events : (s.putView w i v u).events = s.events := by
  unfold State.putView; dsimp only; split
  · rfl
  · split <;> rfl

end putView

section setView
variable (s : State) (w : Width) (i : RegIx) (v : BitVec w.bits)

@[simp] theorem State.setView_params : (s.setView w i v).params = s.params := by simp [State.setView]
@[simp] theorem State.setView_bank : (s.setView w i v).bank = s.bank := by simp [State.setView]
@[simp] theorem State.setView_flag : (s.setView w i v).flag = s.flag := by simp [State.setView]
@[simp] theorem State.setView_flagUndef : (s.setView w i v).flagUndef = s.flagUndef := by simp [State.setView]
@[simp] theorem State.setView_ipo : (s.setView w i v).ipo = s.ipo := by simp [State.setView]
@[simp] theorem State.setView_spc : (s.setView w i v).spc = s.spc := by simp [State.setView]
@[simp] theorem State.setView_cs : (s.setView w i v).cs = s.cs := by simp [State.setView]
@[simp] theorem State.setView_hmem : (s.setView w i v).hmem = s.hmem := by simp [State.setView]
@[simp] theorem State.setView_running : (s.setView w i v).running = s.running := by simp [State.setView]
@[simp] theorem State.setView_rng : (s.setView w i v).rng = s.rng := by simp [State.setView]
@[simp] theorem State.setView_mem : (s.setView w i v).mem = s.mem := by simp [State.setView]
@[simp] theorem State.setView_events : (s.setView w i v).events = s.events := by simp [State.setView]

end setView

section setViewFree
variable (s : State) (w : Width) (i : RegIx)

@[simp] theorem State.setViewFree_params : (s.setViewFree w i).params = s.params := by simp [State.setViewFree]
@[simp] theorem State.setViewFree_bank : (s.setViewFree w i).bank = s.bank := by simp [State.setViewFree]
@[simp] theorem State.setViewFree_flag : (s.setViewFree w i).flag = s.flag := by simp [State.setViewFree]
@[simp] theorem State.setViewFree_flagUndef : (s.setViewFree w i).flagUndef = s.flagUndef := by simp [State.setViewFree]
@[simp] theorem State.setViewFree_ipo : (s.setViewFree w i).ipo = s.ipo := by simp [State.setViewFree]
@[simp] theorem State.setViewFree_spc : (s.setViewFree w i).spc = s.spc := by simp [State.setViewFree]
@[simp] theorem State.setViewFree_cs : (s.setViewFree w i).cs = s.cs := by simp [State.setViewFree]
@[simp] theorem State.setViewFree_hmem : (s.setViewFree w i).hmem = s.hmem := by simp [State.setViewFree]
@[simp] theorem State.setViewFree_running : (s.setViewFree w i).running = s.running := by simp [State.setViewFree]
@[simp] theorem State.setViewFree_rng : (s.setViewFree w i).rng = s.rng := by simp [State.setViewFree]
@[simp] theorem State.setViewFree_mem : (s.setViewFree w i).mem = s.mem := by simp [State.setViewFree]
@[simp] theorem State.setViewFree_events : (s.setViewFree w i).events = s.events := by simp [State.setViewFree]

end setViewFree

section setFloat
variable (s : State) (j : FloatIx) (p : Word)

@[simp] theorem State.setFloat_params : (s.setFloat j p).params = s.params := rfl
@[simp] theorem State.setFloat_bank : (s.setFloat j p).bank = s.bank := rfl
@[simp] theorem State.setFloat_flag : (s.setFloat j p).flag = s.flag := rfl
@[simp] theorem State.setFloat_flagUndef : (s.setFloat j p).flagUndef = s.flagUndef := rfl
@[simp] theorem State.setFloat_ipo : (s.setFloat j p).ipo = s.ipo := rfl
@[simp] theorem State.setFloat_spc : (s.setFloat j p).spc = s.spc := rfl
@[simp] theorem State.setFloat_cs : (s.setFloat j p).cs = s.cs := rfl
@[simp] theorem State.setFloat_hmem : (s.setFloat j p).hmem = s.hmem := rfl
@[simp] theorem State.setFloat_running : (s.setFloat j p).running = s.running := rfl
@[simp] theorem State.setFloat_rng : (s.setFloat j p).rng = s.rng := rfl
@[simp] theorem State.setFloat_mem : (s.setFloat j p).mem = s.mem := rfl
@[simp] theorem State.setFloat_draws : (s.setFloat j p).draws = s.draws := rfl
@[simp] theorem State.setFloat_events : (s.setFloat j p).events = s.events := rfl

end setFloat

section popReturn
variable (s : State)

@[simp] theorem State.popReturn_params : s.popReturn.params = s.params := rfl
@[simp] theorem State.popReturn_banks : s.popReturn.banks = s.banks := rfl
@[simp] theorem State.popReturn_bank : s.popReturn.bank = s.bank := rfl
@[simp] theorem State.popReturn_flag : s.popReturn.flag = s.flag := rfl
@[simp] theorem State.popReturn_flagUndef : s.popReturn.flagUndef = s.flagUndef := rfl
@[simp] theorem State.popReturn_ipo : s.popReturn.ipo = s.cs.getD (s.spc - 1) 0 := rfl
@[simp] theorem State.popReturn_spc : s.popReturn.spc = s.spc - 1 := rfl
@[simp] theorem State.popReturn_cs : s.popReturn.cs = s.cs := rfl
@[simp] theorem State.popReturn_hmem : s.popReturn.hmem = s.hmem := rfl
@[simp] theorem State.popReturn_running : s.popReturn.running = s.running := rfl
@[simp] theorem State.popReturn_rng : s.popReturn.rng = s.rng := rfl
@[simp] theorem State.popReturn_mem : s.popReturn.mem = s.mem := rfl
@[simp] theorem State.popReturn_draws : s.popReturn.draws = s.draws := rfl
@[simp] theorem State.popReturn_events : s.popReturn.events = s.events := rfl

end popReturn

section halt
variable (s : State)

@[simp] theorem State.halt_params : s.halt.params = s.params := rfl
@[simp] theorem State.halt_banks : s.halt.banks = s.banks := rfl
@[simp] theorem State.halt_bank : s.halt.bank = s.bank := rfl
@[simp] theorem State.halt_flag : s.halt.flag = s.flag := rfl
@[simp] theorem State.halt_flagUndef : s.halt.flagUndef = s.flagUndef := rfl
@[simp] theorem State.halt_ipo : s.halt.ipo = s.free := rfl
@[simp] theorem State.halt_spc : s.halt.spc = s.spc := rfl
@[simp] theorem State.halt_cs : s.halt.cs = s.cs := rfl
@[simp] theorem State.halt_hmem : s.halt.hmem = s.hmem := rfl
@[simp] theorem State.halt_running : s.halt.running = false := rfl
@[simp] theorem State.halt_rng : s.halt.rng = s.rng := rfl
@[simp] theorem State.halt_mem : s.halt.mem = s.mem := rfl
@[simp] theorem State.halt_draws : s.halt.draws = s.draws + 1 := rfl
@[simp] theorem State.halt_events : s.halt.events = s.events := rfl

end halt

section record
variable (s : State) (e : HostEvent)

@[simp] theorem State.record_params : (s.record e).params = s.params := rfl
@[simp] theorem State.record_banks : (s.record e).banks = s.banks := rfl
@[simp] theorem State.record_bank : (s.record e).bank = s.bank := rfl
@[simp] theorem State.record_flag : (s.record e).flag = s.flag := rfl
@[simp] theorem State.record_flagUndef : (s.record e).flagUndef = s.flagUndef := rfl
@[simp] theorem State.record_ipo : (s.record e).ipo = s.ipo := rfl
@[simp] theorem State.record_spc : (s.record e).spc = s.spc := rfl
@[simp] theorem State.record_cs : (s.record e).cs = s.cs := rfl
@[simp] theorem State.record_hmem : (s.record e).hmem = s.hmem := rfl
@[simp] theorem State.record_running : (s.record e).running = s.running := rfl
@[simp] theorem State.record_rng : (s.record e).rng = s.rng := rfl
@[simp] theorem State.record_mem : (s.record e).mem = s.mem := rfl
@[simp] theorem State.record_draws : (s.record e).draws = s.draws := rfl
@[simp] theorem State.record_events : (s.record e).events = e :: s.events := rfl

end record

section dropFootprint
variable (s : State)

@[simp] theorem State.dropFootprint_params : s.dropFootprint.params = s.params := rfl
@[simp] theorem State.dropFootprint_banks : s.dropFootprint.banks = s.banks := rfl
@[simp] theorem State.dropFootprint_bank : s.dropFootprint.bank = s.bank := rfl
@[simp] theorem State.dropFootprint_flag : s.dropFootprint.flag = s.flag := rfl
@[simp] theorem State.dropFootprint_flagUndef : s.dropFootprint.flagUndef = s.flagUndef := rfl
@[simp] theorem State.dropFootprint_ipo : s.dropFootprint.ipo = s.ipo := rfl
@[simp] theorem State.dropFootprint_spc : s.dropFootprint.spc = s.spc := rfl
@[simp] theorem State.dropFootprint_cs : s.dropFootprint.cs = s.cs := rfl
@[simp] theorem State.dropFootprint_hmem : s.dropFootprint.hmem = s.hmem := rfl
@[simp] theorem State.dropFootprint_running : s.dropFootprint.running = s.running := rfl
@[simp] theorem State.dropFootprint_rng : s.dropFootprint.rng = s.rng := rfl
@[simp] theorem State.dropFootprint_mem : s.dropFootprint.mem = Store.drop (inFootprint s.params) s.mem := rfl
@[simp] theorem State.dropFootprint_draws : s.dropFootprint.draws = s.draws := rfl
@[simp] theorem State.dropFootprint_events : s.dropFootprint.events = s.events := rfl

end dropFootprint

section hostStop
variable (s : State)

@[simp] theorem State.hostStop_params : s.hostStop.params = s.params := rfl
@[simp] theorem State.hostStop_banks : s.hostStop.banks = s.banks := rfl
@[simp] theorem State.hostStop_bank : s.hostStop.bank = s.bank := rfl
@[simp] theorem State.hostStop_flag : s.hostStop.flag = s.flag := rfl
@[simp] theorem State.hostStop_flagUndef : s.hostStop.flagUndef = s.flagUndef := rfl
@[simp] theorem State.hostStop_ipo : s.hostStop.ipo = s.ipo := rfl
@[simp] theorem State.hostStop_spc : s.hostStop.spc = s.spc := rfl
@[simp] theorem State.hostStop_cs : s.hostStop.cs = s.cs := rfl
@[simp] theorem State.hostStop_hmem : s.hostStop.hmem = s.hmem := rfl
@[simp] theorem State.hostStop_running : s.hostStop.running = false := rfl
@[simp] theorem State.hostStop_rng : s.hostStop.rng = s.rng := rfl
@[simp] theorem State.hostStop_mem : s.hostStop.mem = s.mem := rfl
@[simp] theorem State.hostStop_draws : s.hostStop.draws = s.draws := rfl
@[simp] theorem State.hostStop_events : s.hostStop.events = s.events := rfl

end hostStop

section setFlagBit
variable (s : State) (n : FlagIx) (b : Bool)

@[simp] theorem State.setFlagBit_params : (s.setFlagBit n b).params = s.params := rfl
@[simp] theorem State.setFlagBit_banks : (s.setFlagBit n b).banks = s.banks := rfl
@[simp] theorem State.setFlagBit_bank : (s.setFlagBit n b).bank = s.bank := rfl
@[simp] theorem State.setFlagBit_flag : (s.setFlagBit n b).flag = putBit s.flag n b := rfl
@[simp] theorem State.setFlagBit_flagUndef : (s.setFlagBit n b).flagUndef = putBit s.flagUndef n false := rfl
@[simp] theorem State.setFlagBit_ipo : (s.setFlagBit n b).ipo = s.ipo := rfl
@[simp] theorem State.setFlagBit_spc : (s.setFlagBit n b).spc = s.spc := rfl
@[simp] theorem State.setFlagBit_cs : (s.setFlagBit n b).cs = s.cs := rfl
@[simp] theorem State.setFlagBit_hmem : (s.setFlagBit n b).hmem = s.hmem := rfl
@[simp] theorem State.setFlagBit_running : (s.setFlagBit n b).running = s.running := rfl
@[simp] theorem State.setFlagBit_rng : (s.setFlagBit n b).rng = s.rng := rfl
@[simp] theorem State.setFlagBit_mem : (s.setFlagBit n b).mem = s.mem := rfl
@[simp] theorem State.setFlagBit_draws : (s.setFlagBit n b).draws = s.draws := rfl
@[simp] theorem State.setFlagBit_events : (s.setFlagBit n b).events = s.events := rfl

end setFlagBit

section undefFlags
variable (s : State)

@[simp] theorem State.undefFlags_params : s.undefFlags.params = s.params := rfl
@[simp] theorem State.undefFlags_banks : s.undefFlags.banks = s.banks := rfl
@[simp] theorem State.undefFlags_bank : s.undefFlags.bank = s.bank := rfl
@[simp] theorem State.undefFlags_flag : s.undefFlags.flag = s.free := rfl
@[simp] theorem State.undefFlags_flagUndef : s.undefFlags.flagUndef = allBits true := rfl
@[simp] theorem State.undefFlags_ipo : s.undefFlags.ipo = s.ipo := rfl
@[simp] theorem State.undefFlags_spc : s.undefFlags.spc = s.spc := rfl
@[simp] theorem State.undefFlags_cs : s.undefFlags.cs = s.cs := rfl
@[simp] theorem State.undefFlags_hmem : s.undefFlags.hmem = s.hmem := rfl
@[simp] theorem State.undefFlags_running : s.undefFlags.running = s.running := rfl
@[simp] theorem State.undefFlags_rng : s.undefFlags.rng = s.rng := rfl
@[simp] theorem State.undefFlags_mem : s.undefFlags.mem = s.mem := rfl
@[simp] theorem State.undefFlags_draws : s.undefFlags.draws = s.draws + 1 := rfl
@[simp] theorem State.undefFlags_events : s.undefFlags.events = s.events := rfl

end undefFlags

section undefFlagsBut
variable (s : State) (n : FlagIx) (b : Bool)

@[simp] theorem State.undefFlagsBut_params : (s.undefFlagsBut n b).params = s.params := rfl
@[simp] theorem State.undefFlagsBut_banks : (s.undefFlagsBut n b).banks = s.banks := rfl
@[simp] theorem State.undefFlagsBut_bank : (s.undefFlagsBut n b).bank = s.bank := rfl
@[simp] theorem State.undefFlagsBut_flag : (s.undefFlagsBut n b).flag = putBit s.free n b := rfl
@[simp] theorem State.undefFlagsBut_flagUndef : (s.undefFlagsBut n b).flagUndef = putBit (allBits true) n false := rfl
@[simp] theorem State.undefFlagsBut_ipo : (s.undefFlagsBut n b).ipo = s.ipo := rfl
@[simp] theorem State.undefFlagsBut_spc : (s.undefFlagsBut n b).spc = s.spc := rfl
@[simp] theorem State.undefFlagsBut_cs : (s.undefFlagsBut n b).cs = s.cs := rfl
@[simp] theorem State.undefFlagsBut_hmem : (s.undefFlagsBut n b).hmem = s.hmem := rfl
@[simp] theorem State.undefFlagsBut_running : (s.undefFlagsBut n b).running = s.running := rfl
@[simp] theorem State.undefFlagsBut_rng : (s.undefFlagsBut n b).rng = s.rng := rfl
@[simp] theorem State.undefFlagsBut_mem : (s.undefFlagsBut n b).mem = s.mem := rfl
@[simp] theorem State.undefFlagsBut_draws : (s.undefFlagsBut n b).draws = s.draws + 1 := rfl
@[simp] theorem State.undefFlagsBut_events : (s.undefFlagsBut n b).events = s.events := rfl

end undefFlagsBut

section rangeFlags
variable (s : State) (b : Bool)

@[simp] theorem State.rangeFlags_params : (s.rangeFlags b).params = s.params := rfl
@[simp] theorem State.rangeFlags_banks : (s.rangeFlags b).banks = s.banks := rfl
@[simp] theorem State.rangeFlags_bank : (s.rangeFlags b).bank = s.bank := rfl
@[simp] theorem State.rangeFlags_flag : (s.rangeFlags b).flag = putBit s.free s.params.ovfBit.index b := rfl
@[simp] theorem State.rangeFlags_flagUndef : (s.rangeFlags b).flagUndef = putBit (allBits true) s.params.ovfBit.index false := rfl
@[simp] theorem State.rangeFlags_ipo : (s.rangeFlags b).ipo = s.ipo := rfl
@[simp] theorem State.rangeFlags_spc : (s.rangeFlags b).spc = s.spc := rfl
@[simp] theorem State.rangeFlags_cs : (s.rangeFlags b).cs = s.cs := rfl
@[simp] theorem State.rangeFlags_hmem : (s.rangeFlags b).hmem = s.hmem := rfl
@[simp] theorem State.rangeFlags_running : (s.rangeFlags b).running = s.running := rfl
@[simp] theorem State.rangeFlags_rng : (s.rangeFlags b).rng = s.rng := rfl
@[simp] theorem State.rangeFlags_mem : (s.rangeFlags b).mem = s.mem := rfl
@[simp] theorem State.rangeFlags_draws : (s.rangeFlags b).draws = s.draws + 1 := rfl
@[simp] theorem State.rangeFlags_events : (s.rangeFlags b).events = s.events := rfl

end rangeFlags

section bitFlags
variable (s : State) (b : Bool)

@[simp] theorem State.bitFlags_params : (s.bitFlags b).params = s.params := rfl
@[simp] theorem State.bitFlags_banks : (s.bitFlags b).banks = s.banks := rfl
@[simp] theorem State.bitFlags_bank : (s.bitFlags b).bank = s.bank := rfl
@[simp] theorem State.bitFlags_flagUndef : (s.bitFlags b).flagUndef = putBit (allBits true) s.params.bitFlag false := rfl
@[simp] theorem State.bitFlags_ipo : (s.bitFlags b).ipo = s.ipo := rfl
@[simp] theorem State.bitFlags_spc : (s.bitFlags b).spc = s.spc := rfl
@[simp] theorem State.bitFlags_cs : (s.bitFlags b).cs = s.cs := rfl
@[simp] theorem State.bitFlags_hmem : (s.bitFlags b).hmem = s.hmem := rfl
@[simp] theorem State.bitFlags_running : (s.bitFlags b).running = s.running := rfl
@[simp] theorem State.bitFlags_rng : (s.bitFlags b).rng = s.rng := rfl
@[simp] theorem State.bitFlags_mem : (s.bitFlags b).mem = s.mem := rfl
@[simp] theorem State.bitFlags_draws : (s.bitFlags b).draws = s.draws + 1 := rfl
@[simp] theorem State.bitFlags_events : (s.bitFlags b).events = s.events := rfl

end bitFlags

section compareFlags
variable (s : State) (w : Width) (d x : BitVec w.bits)

@[simp] theorem State.compareFlags_params : (s.compareFlags w d x).params = s.params := rfl
@[simp] theorem State.compareFlags_banks : (s.compareFlags w d x).banks = s.banks := rfl
@[simp] theorem State.compareFlags_bank : (s.compareFlags w d x).bank = s.bank := rfl
@[simp] theorem State.compareFlags_ipo : (s.compareFlags w d x).ipo = s.ipo := rfl
@[simp] theorem State.compareFlags_spc : (s.compareFlags w d x).spc = s.spc := rfl
@[simp] theorem State.compareFlags_cs : (s.compareFlags w d x).cs = s.cs := rfl
@[simp] theorem State.compareFlags_hmem : (s.compareFlags w d x).hmem = s.hmem := rfl
@[simp] theorem State.compareFlags_running : (s.compareFlags w d x).running = s.running := rfl
@[simp] theorem State.compareFlags_rng : (s.compareFlags w d x).rng = s.rng := rfl
@[simp] theorem State.compareFlags_mem : (s.compareFlags w d x).mem = s.mem := rfl
@[simp] theorem State.compareFlags_draws : (s.compareFlags w d x).draws = s.draws + 1 := rfl
@[simp] theorem State.compareFlags_events : (s.compareFlags w d x).events = s.events := rfl

end compareFlags

section jump
variable (s : State) (t : Addr)

@[simp] theorem State.jump_params : (s.jump t).params = s.params := rfl
@[simp] theorem State.jump_banks : (s.jump t).banks = s.banks := rfl
@[simp] theorem State.jump_bank : (s.jump t).bank = s.bank := rfl
@[simp] theorem State.jump_flag : (s.jump t).flag = s.flag := rfl
@[simp] theorem State.jump_flagUndef : (s.jump t).flagUndef = s.flagUndef := rfl
@[simp] theorem State.jump_ipo : (s.jump t).ipo = t.setWidth 32 := rfl
@[simp] theorem State.jump_spc : (s.jump t).spc = s.spc := rfl
@[simp] theorem State.jump_cs : (s.jump t).cs = s.cs := rfl
@[simp] theorem State.jump_hmem : (s.jump t).hmem = s.hmem := rfl
@[simp] theorem State.jump_running : (s.jump t).running = s.running := rfl
@[simp] theorem State.jump_rng : (s.jump t).rng = s.rng := rfl
@[simp] theorem State.jump_mem : (s.jump t).mem = s.mem := rfl
@[simp] theorem State.jump_draws : (s.jump t).draws = s.draws := rfl
@[simp] theorem State.jump_events : (s.jump t).events = s.events := rfl

end jump

section jumpRelative
variable (s : State) (off : BitVec 24)

@[simp] theorem State.jumpRelative_params : (s.jumpRelative off).params = s.params := rfl
@[simp] theorem State.jumpRelative_banks : (s.jumpRelative off).banks = s.banks := rfl
@[simp] theorem State.jumpRelative_bank : (s.jumpRelative off).bank = s.bank := rfl
@[simp] theorem State.jumpRelative_flag : (s.jumpRelative off).flag = s.flag := rfl
@[simp] theorem State.jumpRelative_flagUndef : (s.jumpRelative off).flagUndef = s.flagUndef := rfl
@[simp] theorem State.jumpRelative_ipo : (s.jumpRelative off).ipo = s.ipo + off.signExtend 32 - relativeSize := rfl
@[simp] theorem State.jumpRelative_spc : (s.jumpRelative off).spc = s.spc := rfl
@[simp] theorem State.jumpRelative_cs : (s.jumpRelative off).cs = s.cs := rfl
@[simp] theorem State.jumpRelative_hmem : (s.jumpRelative off).hmem = s.hmem := rfl
@[simp] theorem State.jumpRelative_running : (s.jumpRelative off).running = s.running := rfl
@[simp] theorem State.jumpRelative_rng : (s.jumpRelative off).rng = s.rng := rfl
@[simp] theorem State.jumpRelative_mem : (s.jumpRelative off).mem = s.mem := rfl
@[simp] theorem State.jumpRelative_draws : (s.jumpRelative off).draws = s.draws := rfl
@[simp] theorem State.jumpRelative_events : (s.jumpRelative off).events = s.events := rfl

end jumpRelative

section reseed
variable (s : State) (v : Word)

@[simp] theorem State.reseed_params : (s.reseed v).params = s.params := rfl
@[simp] theorem State.reseed_banks : (s.reseed v).banks = s.banks := rfl
@[simp] theorem State.reseed_bank : (s.reseed v).bank = s.bank := rfl
@[simp] theorem State.reseed_flag : (s.reseed v).flag = s.flag := rfl
@[simp] theorem State.reseed_flagUndef : (s.reseed v).flagUndef = s.flagUndef := rfl
@[simp] theorem State.reseed_ipo : (s.reseed v).ipo = s.ipo := rfl
@[simp] theorem State.reseed_spc : (s.reseed v).spc = s.spc := rfl
@[simp] theorem State.reseed_cs : (s.reseed v).cs = s.cs := rfl
@[simp] theorem State.reseed_hmem : (s.reseed v).hmem = s.hmem := rfl
@[simp] theorem State.reseed_running : (s.reseed v).running = s.running := rfl
@[simp] theorem State.reseed_rng : (s.reseed v).rng = Config.randState v s.draws := rfl
@[simp] theorem State.reseed_mem : (s.reseed v).mem = s.mem := rfl
@[simp] theorem State.reseed_draws : (s.reseed v).draws = s.draws + 1 := rfl
@[simp] theorem State.reseed_events : (s.reseed v).events = s.events := rfl

end reseed

section setVar
variable (s : State) (k v : Word)

@[simp] theorem State.setVar_params : (s.setVar k v).params = s.params := rfl
@[simp] theorem State.setVar_banks : (s.setVar k v).banks = s.banks := rfl
@[simp] theorem State.setVar_bank : (s.setVar k v).bank = s.bank := rfl
@[simp] theorem State.setVar_flag : (s.setVar k v).flag = s.flag := rfl
@[simp] theorem State.setVar_flagUndef : (s.setVar k v).flagUndef = s.flagUndef := rfl
@[simp] theorem State.setVar_ipo : (s.setVar k v).ipo = s.ipo := rfl
@[simp] theorem State.setVar_spc : (s.setVar k v).spc = s.spc := rfl
@[simp] theorem State.setVar_cs : (s.setVar k v).cs = s.cs := rfl
@[simp] theorem State.setVar_hmem : (s.setVar k v).hmem = Store.put s.hmem k.toNat v := rfl
@[simp] theorem State.setVar_running : (s.setVar k v).running = s.running := rfl
@[simp] theorem State.setVar_rng : (s.setVar k v).rng = s.rng := rfl
@[simp] theorem State.setVar_mem : (s.setVar k v).mem = s.mem := rfl
@[simp] theorem State.setVar_draws : (s.setVar k v).draws = s.draws := rfl
@[simp] theorem State.setVar_events : (s.setVar k v).events = s.events := rfl

end setVar

section graphics
variable (s : State) (e : HostEvent)

@[simp] theorem State.graphics_params : (s.graphics e).params = s.params := rfl
@[simp] theorem State.graphics_banks : (s.graphics e).banks = s.banks := rfl
@[simp] theorem State.graphics_bank : (s.graphics e).bank = s.bank := rfl
@[simp] theorem State.graphics_flag : (s.graphics e).flag = s.free := rfl
@[simp] theorem State.graphics_flagUndef : (s.graphics e).flagUndef = allBits true := rfl
@[simp] theorem State.graphics_ipo : (s.graphics e).ipo = s.ipo := rfl
@[simp] theorem State.graphics_spc : (s.graphics e).spc = s.spc := rfl
@[simp] theorem State.graphics_cs : (s.graphics e).cs = s.cs := rfl
@[simp] theorem State.graphics_hmem : (s.graphics e).hmem = s.hmem := rfl
@[simp] theorem State.graphics_running : (s.graphics e).running = s.running := rfl
@[simp] theorem State.graphics_rng : (s.graphics e).rng = s.rng := rfl
@[simp] theorem State.graphics_mem : (s.graphics e).mem = Store.drop (inFootprint s.params) s.mem := rfl
@[simp] theorem State.graphics_draws : (s.graphics e).draws = s.draws + 1 := rfl
@[simp] theorem State.graphics_events : (s.graphics e).events = e :: s.events := rfl

end graphics

section advance
variable (s : State) (n : Nat)

@[simp] theorem State.advance_params : (s.advance n).params = s.params := rfl
@[simp] theorem State.advance_banks : (s.advance n).banks = s.banks := rfl
@[simp] theorem State.advance_bank : (s.advance n).bank = s.bank := rfl
@[simp] theorem State.advance_flag : (s.advance n).flag = s.flag := rfl
@[simp] theorem State.advance_flagUndef : (s.advance n).flagUndef = s.flagUndef := rfl
@[simp] theorem State.advance_ipo : (s.advance n).ipo = s.ipo + BitVec.ofNat 32 n := rfl
@[simp] theorem State.advance_spc : (s.advance n).spc = s.spc := rfl
@[simp] theorem State.advance_cs : (s.advance n).cs = s.cs := rfl
@[simp] theorem State.advance_hmem : (s.advance n).hmem = s.hmem := rfl
@[simp] theorem State.advance_running : (s.advance n).running = s.running := rfl
@[simp] theorem State.advance_rng : (s.advance n).rng = s.rng := rfl
@[simp] theorem State.advance_mem : (s.advance n).mem = s.mem := rfl
@[simp] theorem State.advance_draws : (s.advance n).draws = s.draws := rfl
@[simp] theorem State.advance_events : (s.advance n).events = s.events := rfl

end advance

end Sys2Proof.Machine
end

