-- ==== Sys2Proof/Laws/Store.lean ====
section
/-! SUPPORT. The sparse map: reading after writing, and the canonical form. -/

namespace Sys2Proof.Machine

section
variable {α : Type}

@[simp] theorem Store.get_put_self (m : List (Nat × α)) (a : Nat) (v : α) : Store.get (Store.put m a v) a = some v := by
  induction m with
  | nil => simp [Store.put, Store.get]
  | cons c m ih =>
    obtain ⟨k, w⟩ := c
    simp only [Store.put]
    split
    · simp [Store.get]
    · split
      · simp [Store.get]
      · rename_i h
        simp [Store.get, h, ih]

theorem Store.get_put_ne (m : List (Nat × α)) {a b : Nat} (v : α) (h : b ≠ a) :
    Store.get (Store.put m a v) b = Store.get m b := by
  induction m with
  | nil => simp [Store.put, Store.get, h]
  | cons c m ih =>
    obtain ⟨k, w⟩ := c
    simp only [Store.put]
    split
    · simp [Store.get, h]
    · split
      · rename_i hk; subst hk; simp [Store.get, h]
      · simp only [Store.get, ih]

theorem Store.get_put (m : List (Nat × α)) (a b : Nat) (v : α) :
    Store.get (Store.put m a v) b = if b = a then some v else Store.get m b := by
  split
  · next h => subst h; simp
  · next h => exact Store.get_put_ne m v h

theorem Store.get_drop (p : Nat → Bool) (m : List (Nat × α)) (a : Nat) :
    Store.get (Store.drop p m) a = if p a then none else Store.get m a := by
  induction m with
  | nil => simp [Store.drop, Store.get]
  | cons c m ih =>
    obtain ⟨k, w⟩ := c
    simp only [Store.drop, List.filter_cons] at ih ⊢
    by_cases hp : p k
    · by_cases ha : a = k
      · subst ha; simp [hp, ih]
      · simp [hp, ih, Store.get, ha]
    · by_cases ha : a = k
      · subst ha; simp [hp, Store.get]
      · simp [hp, ih, Store.get, ha]

theorem Store.mem_put {m : List (Nat × α)} {a : Nat} {v : α} {c : Nat × α} (h : c ∈ Store.put m a v) :
    c = (a, v) ∨ c ∈ m := by
  induction m with
  | nil => simpa [Store.put] using h
  | cons d m ih =>
    obtain ⟨k, w⟩ := d
    simp only [Store.put] at h
    split at h
    · simpa using h
    · split at h
      · simp only [List.mem_cons] at h ⊢; tauto
      · simp only [List.mem_cons] at h ⊢
        rcases h with h | h
        · exact .inr (.inl h)
        · rcases ih h with h | h <;> simp [h]

/-- A write keeps the canonical form. -/
theorem Store.put_wf {bound : Nat} {m : List (Nat × α)} {a : Nat} (v : α) (h : Store.Wf bound m) (ha : a < bound) :
    Store.Wf bound (Store.put m a v) := by
  obtain ⟨hs, hb⟩ := h
  refine ⟨?_, fun c hc => ?_⟩
  · induction m with
    | nil => simp [Store.put]
    | cons d m ih =>
      obtain ⟨k, w⟩ := d
      obtain ⟨h1, h2⟩ := List.pairwise_cons.mp hs
      simp only [Store.put]
      split
      · next hk =>
        refine List.pairwise_cons.mpr ⟨fun c hc => ?_, hs⟩
        rcases List.mem_cons.mp hc with rfl | hc
        · exact hk
        · exact Nat.lt_trans hk (h1 c hc)
      · split
        · next hk => subst hk; exact List.pairwise_cons.mpr ⟨h1, h2⟩
        · next hk1 hk2 =>
          refine List.pairwise_cons.mpr ⟨fun c hc => ?_, ih h2 (fun c hc => hb c (List.mem_cons_of_mem _ hc))⟩
          rcases Store.mem_put hc with rfl | hc
          · show k < a; omega
          · exact h1 c hc
  · rcases Store.mem_put hc with rfl | hc
    · exact ha
    · exact hb c hc

/-- Taking values away keeps the canonical form. -/
theorem Store.drop_wf {bound : Nat} {m : List (Nat × α)} (p : Nat → Bool) (h : Store.Wf bound m) :
    Store.Wf bound (Store.drop p m) :=
  ⟨h.1.sublist List.filter_sublist, fun c hc => h.2 c (List.mem_filter.mp hc).1⟩

theorem Store.nil_wf (bound : Nat) : Store.Wf bound ([] : List (Nat × α)) := ⟨List.Pairwise.nil, fun _ h => by cases h⟩

theorem Store.foldl_put_wf {bound : Nat} (l acc : List (Nat × α)) (h : Store.Wf bound acc) :
    Store.Wf bound (l.foldl (fun acc c => if c.1 < bound then Store.put acc c.1 c.2 else acc) acc) := by
  induction l generalizing acc with
  | nil => exact h
  | cons c l ih =>
    apply ih
    dsimp only
    split
    · next hc => exact Store.put_wf _ h hc
    · exact h

/-- The canonical form of any list of pairs is canonical. -/
theorem Store.normal_wf (bound : Nat) (m : List (Nat × α)) : Store.Wf bound (Store.normal bound m) :=
  Store.foldl_put_wf m [] (Store.nil_wf bound)

end

end Sys2Proof.Machine
end

