-- ==== Sys2Proof/Laws/Memory.lean ====
section
/-! SUPPORT. Memory (20_memory.md R81 to R85): runs of bytes, reads and writes of a width, and the canonical form. -/

namespace Sys2Proof.Machine

theorem checkBlock_ok {a n : Nat} (h : n = 0 ∨ a + n ≤ memSize) : checkBlock a n = .ok () := by
  unfold checkBlock
  rw [if_neg]
  omega

theorem checkBlock_error {a n : Nat} (h : n ≠ 0) (h' : memSize < a + n) : checkBlock a n = .error .memOutOfRange :=
  if_pos ⟨h, h'⟩

theorem checkBlock_eq_ok {a n : Nat} (h : checkBlock a n = .ok ()) : n = 0 ∨ a + n ≤ memSize := by
  unfold checkBlock at h
  split at h
  · cases h
  · omega

/-! ## Runs of bytes -/

theorem memBytes_ok {m : List Host.Cell} {a n : Nat} {bs : List Byte} (hl : bs.length = n)
    (h : ∀ k (hk : k < bs.length), Store.get m (a + k) = some bs[k]) : memBytes m a n = .ok bs := by
  induction bs generalizing a n with
  | nil => subst hl; rfl
  | cons b bs ih =>
    obtain ⟨n, rfl⟩ : ∃ n', n = n' + 1 := ⟨bs.length, by simpa using hl.symm⟩
    have h0 := h 0 (by simp)
    simp only [Nat.add_zero, List.getElem_cons_zero] at h0
    simp only [memBytes, h0]
    rw [ih (a := a + 1) (n := n) (by simpa using hl) ?_]
    · rfl
    · intro k hk
      have := h (k + 1) (by simpa using hk)
      simpa [Nat.add_assoc, Nat.add_comm 1] using this

theorem memBytes_error {m : List Host.Cell} {a n : Nat} (h : ∃ k < n, Store.get m (a + k) = none) :
    memBytes m a n = .error .readUndefined := by
  induction n generalizing a with
  | zero => obtain ⟨k, hk, _⟩ := h; omega
  | succ n ih =>
    simp only [memBytes]
    cases hg : Store.get m a with
    | none => rfl
    | some b =>
      obtain ⟨k, hk, hn⟩ := h
      cases k with
      | zero => simp [hg] at hn
      | succ k =>
        rw [ih ⟨k, by omega, by rwa [show a + 1 + k = a + (k + 1) by omega]⟩]
        rfl

theorem memBytes_eq_ok {m : List Host.Cell} {a n : Nat} {bs : List Byte} (h : memBytes m a n = .ok bs) :
    bs.length = n ∧ ∀ k (hk : k < bs.length), Store.get m (a + k) = some bs[k] := by
  induction n generalizing a bs with
  | zero => cases h; simp
  | succ n ih =>
    simp only [memBytes] at h
    cases hg : Store.get m a with
    | none => simp [hg] at h
    | some b =>
      simp only [hg] at h
      cases hr : memBytes m (a + 1) n with
      | error e => rw [hr] at h; cases h
      | ok cs =>
        rw [hr] at h
        obtain rfl : bs = b :: cs := (Except.ok.inj h).symm
        obtain ⟨h1, h2⟩ := ih hr
        refine ⟨by simp [h1], fun k hk => ?_⟩
        cases k with
        | zero => simpa using hg
        | succ k =>
          have := h2 k (by simpa using hk)
          simpa [Nat.add_assoc, Nat.add_comm 1] using this

theorem get_putBytes (m : List Host.Cell) (a : Nat) (bs : List Byte) (q : Nat) :
    Store.get (putBytes m a bs) q = if h : a ≤ q ∧ q < a + bs.length then some (bs[q - a]'(by omega)) else Store.get m q := by
  induction bs generalizing m a with
  | nil =>
    rw [dif_neg]
    · rfl
    · simp only [List.length_nil]; omega
  | cons b bs ih =>
    simp only [putBytes, ih]
    by_cases h1 : q = a
    · subst h1
      rw [dif_neg (by omega), dif_pos (by simp)]
      simp
    · by_cases h2 : a + 1 ≤ q ∧ q < a + 1 + bs.length
      · rw [dif_pos h2, dif_pos (by simp only [List.length_cons]; omega)]
        have : q - a = (q - (a + 1)) + 1 := by omega
        simp [this]
      · rw [dif_neg h2, dif_neg (by simp only [List.length_cons]; omega), Store.get_put_ne _ _ h1]

theorem putBytes_wf {bound : Nat} {m : List Host.Cell} {a : Nat} {bs : List Byte} (h : Store.Wf bound m)
    (ha : bs = [] ∨ a + bs.length ≤ bound) : Store.Wf bound (putBytes m a bs) := by
  induction bs generalizing m a with
  | nil => exact h
  | cons b bs ih =>
    simp only [reduceCtorEq, List.length_cons, false_or] at ha
    exact ih (Store.put_wf _ h (by omega)) (.inr (by omega))

/-! ## Reads and writes of a width -/

theorem readMem_ok {w : Width} {a : Addr} {s : State} {v : BitVec w.bits} (hr : a.toNat + w.bytes ≤ memSize)
    (h : ∀ k < w.bytes, s.byte? (a.toNat + k) = some (v.extractLsb' (w.bits - 8 - 8 * k) 8)) : readMem w a s = .ok v := by
  have hb : memBytes s.mem a.toNat w.bytes = .ok (natToBe w.bytes v.toNat) := by
    apply memBytes_ok (by simp)
    intro k hk
    rw [valueByte w v k (by simpa using hk)]
    exact h k (by simpa using hk)
  simp only [readMem, checkBlock_ok (Or.inr hr), hb]
  show Except.ok _ = _
  rw [ofNat_beToNat_eq w v _ (by simp)]
  intro k hk
  exact valueByte w v k (by simpa using hk)

theorem readMem_error_range {w : Width} {a : Addr} {s : State} (hr : memSize < a.toNat + w.bytes) :
    readMem w a s = .error .memOutOfRange := by
  simp only [readMem, checkBlock_error (by have := w.bytes_pos; omega) hr]
  rfl

theorem readMem_error_undefined {w : Width} {a : Addr} {s : State} (hr : a.toNat + w.bytes ≤ memSize)
    (h : ∃ k < w.bytes, s.byte? (a.toNat + k) = none) : readMem w a s = .error .readUndefined := by
  simp only [readMem, checkBlock_ok (Or.inr hr), memBytes_error h]
  rfl

theorem writeMem_ok {w : Width} {a : Addr} {s : State} (v : BitVec w.bits) (hr : a.toNat + w.bytes ≤ memSize) :
    writeMem w a v s = .ok { s with mem := putBytes s.mem a.toNat (natToBe w.bytes v.toNat) } := by
  simp only [writeMem, checkBlock_ok (Or.inr hr)]
  rfl

theorem writeMem_error {w : Width} {a : Addr} {s : State} (v : BitVec w.bits) (hr : memSize < a.toNat + w.bytes) :
    writeMem w a v s = .error .memOutOfRange := by
  simp only [writeMem, checkBlock_error (by have := w.bytes_pos; omega) hr]
  rfl

/-- What a read of memory that answers has read. -/
theorem readMem_eq_ok {w : Width} {a : Addr} {s : State} {v : BitVec w.bits} (h : readMem w a s = .ok v) :
    a.toNat + w.bytes ≤ memSize ∧ ∀ k < w.bytes, s.byte? (a.toNat + k) = some (v.extractLsb' (w.bits - 8 - 8 * k) 8) := by
  have hp := w.bytes_pos
  by_cases hr : a.toNat + w.bytes ≤ memSize
  · refine ⟨hr, fun k hk => ?_⟩
    simp only [readMem, checkBlock_ok (Or.inr hr)] at h
    cases hb : memBytes s.mem a.toNat w.bytes with
    | error e => rw [hb] at h; cases h
    | ok bs =>
      rw [hb] at h
      obtain rfl : v = BitVec.ofNat w.bits (beToNat bs) := (Except.ok.inj h).symm
      obtain ⟨h1, h2⟩ := memBytes_eq_ok hb
      rw [extract_ofNat_beToNat w bs h1 k (by omega)]
      exact h2 k (by omega)
  · rw [readMem_error_range (by omega)] at h
    cases h

/-- The bytes after a write are the bytes of the value, every other byte is as it was (R84). -/
theorem putBytes_written (w : Width) (a : Nat) (v : BitVec w.bits) (s : State) :
    MemWritten w a v s { s with mem := putBytes s.mem a (natToBe w.bytes v.toNat) } := by
  refine ⟨fun k hk => ?_, fun q hq => ?_⟩
  · simp only [State.byte?, get_putBytes]
    rw [dif_pos (by simp [hk])]
    simp only [Nat.add_sub_cancel_left]
    rw [valueByte w v k hk]
  · simp only [State.byte?, get_putBytes]
    rw [dif_neg (by simp only [natToBe_length]; omega)]

theorem MemWritten.congr {w : Width} {a : Nat} {v : BitVec w.bits} {s t t' : State} (h : MemWritten w a v s t)
    (hm : t'.mem = t.mem) : MemWritten w a v s t' := by
  simpa [MemWritten, State.byte?, hm] using h

end Sys2Proof.Machine
end

