-- ==== Sys2Proof/Laws/BitField.lean ====
section
/-! SUPPORT. The bit-addressed view (42_shift_bit.md R248): what `bitRead` reads, what `bitWrite` leaves. -/

namespace Sys2Proof.Machine

theorem bitsToNat_lt (f : Nat → Bool) (n : Nat) : bitsToNat f n < 2 ^ n := by
  induction n with
  | zero => simp [bitsToNat]
  | succ n ih => simp only [bitsToNat, Nat.pow_succ]; split <;> omega

theorem bitsToNat_testBit (f : Nat → Bool) (n k : Nat) : (bitsToNat f n).testBit k = (decide (k < n) && f k) := by
  induction n with
  | zero => simp [bitsToNat]
  | succ n ih =>
    have hlt := bitsToNat_lt f n
    simp only [bitsToNat]
    by_cases hf : f n
    · rw [if_pos hf, Nat.add_comm]
      by_cases hk : k = n
      · subst hk
        rw [Nat.testBit_two_pow_add_eq, ih]
        simp [hf]
      · by_cases hk' : k < n
        · rw [Nat.testBit_two_pow_add_gt hk', ih]
          simp [hk', Nat.lt_succ_of_lt hk']
        · have h1 : 2 ^ n + bitsToNat f n < 2 ^ k := by
            have : 2 ^ (n + 1) ≤ 2 ^ k := Nat.pow_le_pow_right (by omega) (by omega)
            rw [Nat.pow_succ] at this; omega
          rw [Nat.testBit_lt_two_pow h1]
          have : ¬ k < n + 1 := by omega
          simp [this]
    · rw [if_neg hf, Nat.add_zero, ih]
      by_cases hk : k = n
      · subst hk; simp [hf]
      · congr 1
        simp only [decide_eq_decide]
        omega

theorem ofNat_bitsToNat_getLsbD (f : Nat → Bool) (n k : Nat) (hk : k < n) :
    (BitVec.ofNat n (bitsToNat f n)).getLsbD k = f k := by
  rw [BitVec.getLsbD_ofNat, bitsToNat_testBit]
  simp [hk]

theorem fieldBit_lt {o : BitviewOrder} {n j : Nat} (h : j < n) : fieldBit o n j < n := by
  cases o <;> simp only [fieldBit] <;> omega

theorem fieldBit_fieldBit {o : BitviewOrder} {n j : Nat} (h : j < n) : fieldBit o n (fieldBit o n j) = j := by
  cases o <;> simp only [fieldBit]
  omega

theorem bitPlace_lt (o : BitviewOrder) (g : Nat) : bitPlace o g < 8 := by
  cases o <;> simp only [bitPlace] <;> omega

theorem bitPlace_bitPlace (o : BitviewOrder) (g : Nat) : bitPlace o (bitPlace o g) = g % 8 := by
  cases o <;> simp only [bitPlace] <;> omega

theorem valueBit_eq (s : State) (w : Width) (j : Nat) : valueBit s w j = fieldBit s.params.bitviewOrder w.bits j := by
  unfold valueBit fieldBit; cases s.params.bitviewOrder <;> rfl

theorem fieldBit_iff (s : State) (g : Nat) (b : Bool) :
    FieldBit s g b ↔ ∃ v, s.byte? (g / 8) = some v ∧ b = v.getLsbD (bitPlace s.params.bitviewOrder g) := by
  unfold FieldBit bitPlace; cases s.params.bitviewOrder <;> rfl

/-- The bytes a field touches, as a run. -/
theorem field_run {w : Width} {a off : Nat} :
    firstByte a off + ((8 * a + off + w.bits - 1) / 8 - firstByte a off + 1) = lastByte w a off + 1 := by
  have : 8 ≤ w.bits := by rw [Width.bits_eq]; have := w.bytes_pos; omega
  unfold firstByte lastByte
  have : (8 * a + off) / 8 ≤ (8 * a + off + w.bits - 1) / 8 := Nat.div_le_div_right (by omega)
  omega

theorem bitRead_error {w : Width} {a : Addr} {off : Byte} {s : State} (h : memSize ≤ lastByte w a.toNat off.toNat) :
    bitRead w a off s = .error .memOutOfRange := by
  have hr := field_run (w := w) (a := a.toNat) (off := off.toNat)
  simp only [bitRead]
  rw [checkBlock_error (by omega) (by unfold firstByte lastByte at *; omega)]
  rfl

theorem bitWrite_error {w : Width} {a : Addr} {off : Byte} {s : State} (v : BitVec w.bits)
    (h : memSize ≤ lastByte w a.toNat off.toNat) : bitWrite w a off v s = .error .memOutOfRange := by
  have hr := field_run (w := w) (a := a.toNat) (off := off.toNat)
  simp only [bitWrite]
  rw [checkBlock_error (by omega) (by unfold firstByte lastByte at *; omega)]
  rfl

/-- What a read of a bit field that answers has read. -/
theorem bitRead_holds {w : Width} {a : Addr} {off : Byte} {s : State} {v : BitVec w.bits} (h : bitRead w a off s = .ok v) :
    lastByte w a.toNat off.toNat < memSize ∧ FieldHolds s w a.toNat off.toNat v := by
  have hr := field_run (w := w) (a := a.toNat) (off := off.toNat)
  by_cases hlast : lastByte w a.toNat off.toNat < memSize
  · refine ⟨hlast, fun j hj => ?_⟩
    simp only [bitRead] at h
    rw [checkBlock_ok (by right; unfold firstByte lastByte at *; omega)] at h
    cases hb : memBytes s.mem ((8 * a.toNat + off.toNat) / 8)
        ((8 * a.toNat + off.toNat + w.bits - 1) / 8 - (8 * a.toNat + off.toNat) / 8 + 1) with
    | error e => rw [hb] at h; cases h
    | ok bs =>
      rw [hb] at h
      have hv := (Except.ok.inj h).symm
      obtain ⟨h1, h2⟩ := memBytes_eq_ok hb
      have hq : (8 * a.toNat + off.toNat) / 8 ≤ (8 * a.toNat + off.toNat + j) / 8 := Nat.div_le_div_right (by omega)
      have hq' : (8 * a.toNat + off.toNat + j) / 8 ≤ (8 * a.toNat + off.toNat + w.bits - 1) / 8 :=
        Nat.div_le_div_right (by omega)
      have hlt : (8 * a.toNat + off.toNat + j) / 8 - (8 * a.toNat + off.toNat) / 8 < bs.length := by omega
      rw [fieldBit_iff, valueBit_eq, hv, ofNat_bitsToNat_getLsbD _ _ _ (fieldBit_lt hj), fieldBit_fieldBit hj]
      refine ⟨bs[(8 * a.toNat + off.toNat + j) / 8 - (8 * a.toNat + off.toNat) / 8], ?_, ?_⟩
      · have := h2 _ hlt
        rwa [Nat.add_sub_cancel' hq] at this
      · simp only [listBit]
        rw [List.getD_eq_getElem _ _ hlt]
  · rw [bitRead_error (by omega)] at h
    cases h

theorem bitRead_ok {w : Width} {a : Addr} {off : Byte} {s : State} (hl : lastByte w a.toNat off.toNat < memSize)
    (hd : FieldDefined s w a.toNat off.toNat) : ∃ v, bitRead w a off s = .ok v := by
  have hr := field_run (w := w) (a := a.toNat) (off := off.toNat)
  simp only [bitRead]
  rw [checkBlock_ok (by right; unfold firstByte lastByte at *; omega)]
  generalize hc : (8 * a.toNat + off.toNat + w.bits - 1) / 8 - (8 * a.toNat + off.toNat) / 8 + 1 = c at *
  have hb : memBytes s.mem ((8 * a.toNat + off.toNat) / 8) c =
      .ok (((List.range c).map (fun k => (Store.get s.mem ((8 * a.toNat + off.toNat) / 8 + k)).getD 0))) := by
    apply memBytes_ok (by simp)
    intro k hk
    simp only [List.length_map, List.length_range] at hk
    have := hd ((8 * a.toNat + off.toNat) / 8 + k) (by unfold firstByte; omega)
      (by unfold firstByte lastByte at *; omega)
    obtain ⟨b, hb⟩ := Option.isSome_iff_exists.mp this
    unfold State.byte? at hb
    simp [hb]
  rw [hb]
  exact ⟨_, rfl⟩

/-- A read of a field inside memory that touches an UNDEF byte faults. -/
theorem bitRead_undefined {w : Width} {a : Addr} {off : Byte} {s : State} (hl : lastByte w a.toNat off.toNat < memSize)
    (hd : ¬ FieldDefined s w a.toNat off.toNat) : bitRead w a off s = .error .readUndefined := by
  have hr := field_run (w := w) (a := a.toNat) (off := off.toNat)
  obtain ⟨q, h1, h2, hq⟩ : ∃ q, firstByte a.toNat off.toNat ≤ q ∧ q ≤ lastByte w a.toNat off.toNat ∧ s.byte? q = none := by
    simpa [FieldDefined] using hd
  simp only [bitRead]
  rw [checkBlock_ok (by right; unfold firstByte lastByte at *; omega), memBytes_error]
  · rfl
  · refine ⟨q - firstByte a.toNat off.toNat, by unfold firstByte lastByte at *; omega, ?_⟩
    rwa [show (8 * a.toNat + off.toNat) / 8 + (q - firstByte a.toNat off.toNat) = q by unfold firstByte at *; omega]

/-- A field holds one value at most. -/
theorem FieldHolds.unique {s : State} {w : Width} {a off : Nat} {v v' : BitVec w.bits} (h : FieldHolds s w a off v)
    (h' : FieldHolds s w a off v') : v = v' := by
  apply BitVec.eq_of_getLsbD_eq
  intro k hk
  have hj := fieldBit_lt (o := s.params.bitviewOrder) hk
  obtain ⟨x, hx, hx'⟩ := h _ hj
  obtain ⟨y, hy, hy'⟩ := h' _ hj
  rw [valueBit_eq, fieldBit_fieldBit hk] at hx' hy'
  rw [hx', hy']
  obtain rfl : x = y := Option.some.inj (hx.symm.trans hy)
  rfl

theorem get_bitWriteBytes (o : BitviewOrder) (w : Width) (g : Nat) (v : BitVec w.bits) (m : List Host.Cell) (q0 n q : Nat) :
    Store.get (bitWriteBytes o w g v m q0 n) q =
      if q0 ≤ q ∧ q < q0 + n then bitWriteByte o w g v q (Store.get m q) else Store.get m q := by
  induction n generalizing m q0 with
  | zero => rw [if_neg (by omega)]; rfl
  | succ n ih =>
    simp only [bitWriteBytes]
    by_cases hq : q = q0
    · subst hq
      cases hw : bitWriteByte o w g v q (Store.get m q) with
      | none =>
        simp only [ih]
        rw [if_neg (by omega), if_pos (by omega)]
        cases hg : Store.get m q with
        | none => rfl
        | some b => rw [hg] at hw; simp [bitWriteByte] at hw
      | some b => simp only [ih]; rw [if_neg (by omega), if_pos (by omega), Store.get_put_self]
    · cases hw : bitWriteByte o w g v q0 (Store.get m q0) with
      | none =>
        simp only [ih]
        by_cases h : q0 + 1 ≤ q ∧ q < q0 + 1 + n
        · rw [if_pos h, if_pos (by omega)]
        · rw [if_neg h, if_neg (by omega)]
      | some b =>
        simp only [ih, Store.get_put_ne _ _ hq]
        by_cases h : q0 + 1 ≤ q ∧ q < q0 + 1 + n
        · rw [if_pos h, if_pos (by omega)]
        · rw [if_neg h, if_neg (by omega)]

theorem bitWriteBytes_wf {bound : Nat} {o : BitviewOrder} {w : Width} {g : Nat} {v : BitVec w.bits} {m : List Host.Cell}
    {q0 n : Nat} (h : Store.Wf bound m) (hb : q0 + n ≤ bound) : Store.Wf bound (bitWriteBytes o w g v m q0 n) := by
  induction n generalizing m q0 with
  | zero => exact h
  | succ n ih =>
    simp only [bitWriteBytes]
    split
    · exact ih h (by omega)
    · exact ih (Store.put_wf _ h (by omega)) (by omega)

/-- A write of a bit field inside the memory answers this state. -/
theorem bitWrite_ok {w : Width} {a : Addr} {off : Byte} {s : State} (v : BitVec w.bits)
    (hl : lastByte w a.toNat off.toNat < memSize) :
    bitWrite w a off v s = .ok { s with
      mem := bitWriteBytes s.params.bitviewOrder w (8 * a.toNat + off.toNat) v s.mem (firstByte a.toNat off.toNat)
        ((8 * a.toNat + off.toNat + w.bits - 1) / 8 - firstByte a.toNat off.toNat + 1) } := by
  have hr := field_run (w := w) (a := a.toNat) (off := off.toNat)
  simp only [bitWrite]
  rw [checkBlock_ok (by right; unfold firstByte lastByte at *; omega)]
  rfl

/-- The bits of a byte that was defined or is fully covered, after a write of a field. -/
theorem bitWriteByte_some (o : BitviewOrder) (w : Width) (g : Nat) (v : BitVec w.bits) (q : Nat) (old : Option Byte)
    (h : old.isSome ∨ (g ≤ 8 * q ∧ 8 * q + 8 ≤ g + w.bits)) :
    ∃ c, bitWriteByte o w g v q old = some c ∧ ∀ p, p / 8 = q →
      c.getLsbD (bitPlace o p) =
        if g ≤ p ∧ p < g + w.bits then v.getLsbD (fieldBit o w.bits (p - g)) else (old.getD 0).getLsbD (bitPlace o p) := by
  have hpos (p : Nat) (hp : p / 8 = q) : 8 * q + bitPlace o (bitPlace o p) = p := by rw [bitPlace_bitPlace]; omega
  cases old with
  | some b =>
    refine ⟨_, rfl, fun p hp => ?_⟩
    rw [ofNat_bitsToNat_getLsbD _ _ _ (bitPlace_lt o p)]
    simp only [hpos p hp]
    by_cases h : g ≤ p ∧ p < g + w.bits
    · rw [if_pos h, if_pos (decide_eq_true h)]
    · rw [if_neg h, if_neg (by simpa using h)]; rfl
  | none =>
    have hc : g ≤ 8 * q ∧ 8 * q + 8 ≤ g + w.bits := h.resolve_left (by simp)
    have hall : (List.range 8).all (fun k => decide (g ≤ 8 * q + bitPlace o k ∧ 8 * q + bitPlace o k < g + w.bits)) = true := by
      simp only [List.all_eq_true, decide_eq_true_eq]
      intro k _
      have := bitPlace_lt o k
      omega
    refine ⟨_, if_pos hall, fun p hp => ?_⟩
    rw [ofNat_bitsToNat_getLsbD _ _ _ (bitPlace_lt o p), if_pos (by omega)]
    simp only [hpos p hp]

/-- A byte that was UNDEF and is not fully covered stays UNDEF. -/
theorem bitWriteByte_none (o : BitviewOrder) (w : Width) (g : Nat) (v : BitVec w.bits) (q : Nat)
    (h : ¬ (g ≤ 8 * q ∧ 8 * q + 8 ≤ g + w.bits)) : bitWriteByte o w g v q none = none := by
  apply if_neg
  simp only [List.all_eq_true, decide_eq_true_eq]
  intro hc
  have hp : bitPlace o (bitPlace o 0) = 0 := bitPlace_bitPlace o 0
  have hp7 : bitPlace o (bitPlace o 7) = 7 := bitPlace_bitPlace o 7
  have h0 := hc (bitPlace o 0) (List.mem_range.mpr (bitPlace_lt o 0))
  have h7 := hc (bitPlace o 7) (List.mem_range.mpr (bitPlace_lt o 7))
  rw [hp] at h0
  rw [hp7] at h7
  omega

/-- Bytes outside those a field touches are as they were. -/
theorem bitWrite_outside {o : BitviewOrder} {w : Width} {a off : Nat} {v : BitVec w.bits} {s : State} {q : Nat}
    (hq : q < firstByte a off ∨ lastByte w a off < q) :
    State.byte? { s with
      mem := bitWriteBytes o w (8 * a + off) v s.mem (firstByte a off)
        ((8 * a + off + w.bits - 1) / 8 - firstByte a off + 1) } q = s.byte? q := by
  have hr := field_run (w := w) (a := a) (off := off)
  simp only [State.byte?, get_bitWriteBytes]
  rw [if_neg (by omega)]

/-- Everything a write of a field does to memory (R248). -/
theorem bitWrite_written {w : Width} {a off : Nat} (v : BitVec w.bits) (s : State) :
    FieldWritten w a off v s { s with
      mem := bitWriteBytes s.params.bitviewOrder w (8 * a + off) v s.mem (firstByte a off)
        ((8 * a + off + w.bits - 1) / 8 - firstByte a off + 1) } := by
  have hr := field_run (w := w) (a := a) (off := off)
  have h8 : 8 ≤ w.bits := by rw [Width.bits_eq]; have := w.bytes_pos; omega
  refine ⟨fun j hj hd => ?_, fun q hq hc => ?_, fun g hg b hb => ?_, fun q hq => bitWrite_outside hq⟩
  · have hq : firstByte a off ≤ (8 * a + off + j) / 8 := Nat.div_le_div_right (by omega)
    have hq' : (8 * a + off + j) / 8 ≤ lastByte w a off := Nat.div_le_div_right (by omega)
    obtain ⟨c, hc, hc'⟩ := bitWriteByte_some s.params.bitviewOrder w (8 * a + off) v _ _ hd
    rw [fieldBit_iff, valueBit_eq]
    refine ⟨c, ?_, ?_⟩
    · simp only [State.byte?, get_bitWriteBytes]
      rw [if_pos (by omega)]
      exact hc
    · rw [hc' _ rfl, if_pos (by omega), Nat.add_sub_cancel_left]
  · simp only [State.byte?, get_bitWriteBytes]
    unfold State.byte? at hq
    rw [hq, bitWriteByte_none _ _ _ _ _ hc, ite_self]
  · rw [fieldBit_iff] at hb ⊢
    obtain ⟨x, hx, rfl⟩ := hb
    simp only [State.byte?, get_bitWriteBytes]
    unfold State.byte? at hx
    by_cases hin : firstByte a off ≤ g / 8 ∧
        g / 8 < firstByte a off + ((8 * a + off + w.bits - 1) / 8 - firstByte a off + 1)
    · obtain ⟨c, hc, hc'⟩ := bitWriteByte_some s.params.bitviewOrder w (8 * a + off) v (g / 8) (some x) (.inl rfl)
      refine ⟨c, by rw [if_pos hin, hx]; exact hc, ?_⟩
      rw [hc' g rfl, if_neg (by omega)]; rfl
    · exact ⟨x, by rw [if_neg hin]; exact hx, rfl⟩

/-- A field that was written is read back where every byte of it was defined or is fully covered (R250). -/
theorem bitRead_written {w : Width} {a : Addr} {off : Byte} {v : BitVec w.bits} {s t : State} (hp : t.params = s.params)
    (hl : lastByte w a.toNat off.toNat < memSize) (h : FieldWritten w a.toNat off.toNat v s t)
    (hd : FieldDetermined s w a.toNat off.toNat) : bitRead w a off t = .ok v := by
  have h8 : 8 ≤ w.bits := by rw [Width.bits_eq]; have := w.bytes_pos; omega
  have hh : FieldHolds t w a.toNat off.toNat v := fun j hj => by
    have := h.1 j hj (hd _ (Nat.div_le_div_right (by omega)) (Nat.div_le_div_right (by omega)))
    rwa [valueBit_eq, ← hp, ← valueBit_eq] at this
  have hdef : FieldDefined t w a.toNat off.toNat := by
    intro q h1 h2
    obtain ⟨j, hj, hq⟩ : ∃ j < w.bits, (8 * a.toNat + off.toNat + j) / 8 = q := by
      unfold firstByte lastByte at *
      by_cases hq : 8 * a.toNat + off.toNat ≤ 8 * q
      · exact ⟨8 * q - (8 * a.toNat + off.toNat), by omega, by omega⟩
      · exact ⟨0, by omega, by omega⟩
    obtain ⟨x, hx, -⟩ := hh j hj
    rw [← hq, hx]
    rfl
  obtain ⟨v', hv'⟩ := bitRead_ok hl hdef
  rw [hv', (bitRead_holds hv').2.unique hh]

end Sys2Proof.Machine
end

