-- ==== Sys2Proof/Laws/Registers.lean ====
section
/-! SUPPORT. Register views (10_state.md R33, R34): what a view reads after a write, and that a write leaves every view apart
from it, every float register and every other bank. -/

namespace Sys2Proof.Machine

/-! ## What views depend on -/

theorem State.activeBank_congr {s t : State} (hb : t.banks = s.banks) (hk : t.bank = s.bank) :
    t.activeBank = s.activeBank := by simp [State.activeBank, hb, hk]

theorem State.view_congr {s t : State} (hp : t.params = s.params) (hb : t.activeBank = s.activeBank) (w : Width) (i : RegIx) :
    t.view w i = s.view w i := by simp [State.view, hp, hb]

theorem State.viewUndef_congr {s t : State} (hp : t.params = s.params) (hb : t.activeBank = s.activeBank) (w : Width)
    (i : RegIx) : t.viewUndef w i = s.viewUndef w i := by simp [State.viewUndef, hp, hb]

theorem State.float_congr {s t : State} (hb : t.activeBank = s.activeBank) (j : FloatIx) : t.float j = s.float j := by
  simp [State.float, hb]

theorem State.floatUndef_congr {s t : State} (hb : t.activeBank = s.activeBank) (j : FloatIx) :
    t.floatUndef j = s.floatUndef j := by simp [State.floatUndef, hb]

theorem State.activeBank_setActiveBank {s : State} (h : s.bank < s.banks.length) (b : Bank) :
    (s.setActiveBank b).activeBank = b := by simp [State.activeBank, h]

theorem State.activeBank_setActiveBank_none {s : State} (h : ¬ s.bank < s.banks.length) (b : Bank) :
    (s.setActiveBank b).activeBank = s.activeBank := by
  simp only [State.activeBank, State.setActiveBank_banks, State.setActiveBank_bank]
  rw [List.set_eq_of_length_le (by omega)]

theorem OtherBanksSame.refl (s : State) : OtherBanksSame s s := ⟨rfl, fun _ _ => rfl⟩

theorem OtherBanksSame.setActiveBank (s : State) (b : Bank) : OtherBanksSame s (s.setActiveBank b) :=
  ⟨by simp, fun k hk => by simp [List.getElem?_set_ne (Ne.symm hk)]⟩

/-! ## Byte cells -/

theorem cellIndex_val {n : Nat} (hn : 0 < n) (h32 : n ≤ 32) (j : Nat) : (cellIndex n j).val = j % n := by
  have := Nat.mod_lt j hn
  simp only [cellIndex, Fin.val_ofNat]
  exact Nat.mod_eq_of_lt (by omega)

theorem cellIndex_eq_iff {n : Nat} (hn : 0 < n) (h32 : n ≤ 32) (a b : Nat) :
    cellIndex n a = cellIndex n b ↔ a % n = b % n := by
  rw [Fin.ext_iff, cellIndex_val hn h32, cellIndex_val hn h32]

@[simp] theorem readCells_length {α : Type} (n : Nat) (b : Vector α 32) (i k : Nat) : (readCells n b i k).length = k := by
  induction k generalizing i with
  | zero => rfl
  | succ k ih => simp [readCells, ih]

theorem readCells_getElem {α : Type} (n : Nat) (b : Vector α 32) (i k j : Nat) (h : j < (readCells n b i k).length) :
    (readCells n b i k)[j] = b.get (cellIndex n (i + j)) := by
  induction k generalizing i j with
  | zero => simp [readCells] at h
  | succ k ih =>
    cases j with
    | zero => simp [readCells]
    | succ j =>
      simp only [readCells, List.getElem_cons_succ]
      rw [ih]
      congr 2
      omega

theorem vector_get_set {α : Type} {n : Nat} (b : Vector α n) (i j : Fin n) (x : α) :
    (b.set i x).get j = if j = i then x else b.get j := by
  show (b.set i.val x)[j.val] = _
  rw [Vector.getElem_set]
  by_cases h : j = i
  · simp [h]
  · have : ¬ i.val = j.val := fun e => h (Fin.ext e.symm)
    simp [h, this, Vector.get]

theorem setCells_get_apart {α : Type} (n : Nat) (b : Vector α 32) (i : Nat) (bs : List α) (c : Fin 32)
    (h : ∀ j < bs.length, cellIndex n (i + j) ≠ c) : (setCells n b i bs).get c = b.get c := by
  induction bs generalizing b i with
  | nil => rfl
  | cons x xs ih =>
    simp only [setCells]
    rw [ih, vector_get_set, if_neg]
    · exact fun e => h 0 (by simp) (by simpa using e.symm)
    · intro j hj
      have := h (j + 1) (by simpa using hj)
      rwa [show i + 1 + j = i + (j + 1) by omega]

theorem setCells_get {α : Type} {n : Nat} (h32 : n ≤ 32) (b : Vector α 32) (i : Nat) (bs : List α) (hl : bs.length ≤ n)
    (j : Nat) (hj : j < bs.length) : (setCells n b i bs).get (cellIndex n (i + j)) = bs[j] := by
  induction bs generalizing b i j with
  | nil => simp at hj
  | cons x xs ih =>
    simp only [List.length_cons] at hl hj
    have hn : 0 < n := by omega
    simp only [setCells]
    cases j with
    | zero =>
      rw [setCells_get_apart, vector_get_set]
      · simp
      · intro j hj'
        rw [ne_eq, cellIndex_eq_iff hn h32]
        intro e
        have h1 : (i + (j + 1)) % n = (i + 0) % n := by rw [← e]; congr 1; omega
        have h2 := (Nat.ModEq.add_left_cancel' i h1 : (j + 1) ≡ 0 [MOD n])
        have h3 : (j + 1) % n = 0 := by simpa [Nat.ModEq] using h2
        rw [Nat.mod_eq_of_lt (by omega)] at h3
        omega
    | succ j =>
      rw [show i + (j + 1) = i + 1 + j by omega, ih _ _ (by omega) _ (by omega)]
      simp

/-- Cells given one value all hold it, even where the write wraps onto itself. -/
theorem setCells_replicate_get {α : Type} (n : Nat) (b : Vector α 32) (i k : Nat) (x : α) (c : Fin 32)
    (h : ∃ j < k, cellIndex n (i + j) = c) : (setCells n b i (List.replicate k x)).get c = x := by
  induction k generalizing b i with
  | zero => obtain ⟨j, hj, -⟩ := h; omega
  | succ k ih =>
    simp only [List.replicate_succ, setCells]
    by_cases h' : ∃ j < k, cellIndex n (i + 1 + j) = c
    · exact ih _ _ h'
    · obtain ⟨j, hj, he⟩ := h
      have hj0 : j = 0 := by
        by_contra h0
        exact h' ⟨j - 1, by omega, by rw [← he]; congr 1; omega⟩
      subst hj0
      rw [setCells_get_apart, vector_get_set, if_pos (by simpa using he.symm)]
      intro l hl hc
      exact h' ⟨l, by simpa using hl, hc⟩

/-- A view is UNDEF as soon as one of its cells is. -/
theorem readCells_any (n : Nat) (b : Vector Bool 32) (i k : Nat) :
    (readCells n b i k).any id = true ↔ ∃ j < k, b.get (cellIndex n (i + j)) = true := by
  induction k generalizing i with
  | zero => simp [readCells]
  | succ k ih =>
    simp only [readCells, List.any_cons, id_eq, Bool.or_eq_true, ih]
    constructor
    · rintro (h | ⟨j, hj, h⟩)
      · exact ⟨0, by omega, by simpa using h⟩
      · exact ⟨j + 1, by omega, by rwa [show i + (j + 1) = i + 1 + j by omega]⟩
    · rintro ⟨j, hj, h⟩
      cases j with
      | zero => exact .inl (by simpa using h)
      | succ j => exact .inr ⟨j, by omega, by rwa [show i + 1 + j = i + (j + 1) by omega]⟩

/-! ## Views after a write -/

theorem State.view_byteOverlap {s : State} (h : s.params.regLayout = .byteOverlap) (w : Width) (i : RegIx) :
    s.view w i = BitVec.ofNat w.bits (beToNat (readCells s.params.numIntRegs s.activeBank.bytes i.toNat w.bytes)) := by
  simp [State.view, h]

theorem State.view_cell32 {s : State} (h : s.params.regLayout = .cell32) (w : Width) (i : RegIx) :
    s.view w i = (s.activeBank.words.get i.toFin).setWidth w.bits := by simp [State.view, h]

theorem overlay_low (w : Width) (high : Word) (v : BitVec w.bits) : (overlay w high v).setWidth w.bits = v := by
  apply BitVec.eq_of_getLsbD_eq
  intro k hk
  have hw : w.bits ≤ 32 := by rw [Width.bits_eq]; have := w.bytes_le; omega
  have h32 : k < 32 := by omega
  simp [overlay, hk, h32]

theorem overlay_high (w : Width) (high : Word) (v : BitVec w.bits) (k : Nat) (h : w.bits ≤ k) (hk : k < 32) :
    (overlay w high v).getLsbD k = high.getLsbD k := by
  have h1 : ¬ k < w.bits := by omega
  have h2 : v.getLsbD k = false := BitVec.getLsbD_of_ge v k h
  simp [overlay, hk, h1, h2, Nat.add_sub_cancel' h]

theorem setWidth_back (w : Width) (v : BitVec w.bits) : (v.setWidth 32).setWidth w.bits = v := by
  apply BitVec.eq_of_getLsbD_eq
  intro k hk
  have hw : k < 32 := by have := w.bytes_le; rw [Width.bits_eq] at hk; omega
  simp [hk, hw]

/-- The active bank after a write to a view, for a bank that exists. -/
theorem State.putView_activeBank {s : State} (hb : s.bank < s.banks.length) (w : Width) (i : RegIx) (v : BitVec w.bits)
    (u : Bool) : (s.putView w i v u).activeBank =
      match s.params.regLayout with
      | .byteOverlap => { s.activeBank with
          bytes := setCells s.params.numIntRegs s.activeBank.bytes i.toNat (natToBe w.bytes v.toNat)
          bytesUndef := setCells s.params.numIntRegs s.activeBank.bytesUndef i.toNat (List.replicate w.bytes u) }
      | .cell32 => { s.activeBank with
          words := s.activeBank.words.set i.toFin (if w = .w32 then v.setWidth 32 else overlay w s.free v)
          wordsUndef := s.activeBank.wordsUndef.set i.toFin (overlay w (allBits true) ((allBits u).setWidth w.bits)) } := by
  unfold State.putView
  cases h : s.params.regLayout with
  | byteOverlap => exact State.activeBank_setActiveBank hb _
  | cell32 =>
    dsimp only
    split
    · exact State.activeBank_setActiveBank hb _
    · exact State.activeBank_setActiveBank (s := s.tick) hb _

theorem State.putView_activeBank_none {s : State} (hb : ¬ s.bank < s.banks.length) (w : Width) (i : RegIx)
    (v : BitVec w.bits) (u : Bool) : (s.putView w i v u).activeBank = s.activeBank := by
  unfold State.putView
  dsimp only
  split
  · exact State.activeBank_setActiveBank_none hb _
  · split
    · exact State.activeBank_setActiveBank_none hb _
    · exact State.activeBank_setActiveBank_none (s := s.tick) hb _

theorem State.putView_otherBanks (s : State) (w : Width) (i : RegIx) (v : BitVec w.bits) (u : Bool) :
    OtherBanksSame s (s.putView w i v u) := by
  unfold State.putView
  dsimp only
  split
  · exact OtherBanksSame.setActiveBank s _
  · split
    · exact OtherBanksSame.setActiveBank s _
    · exact OtherBanksSame.setActiveBank s.tick _

theorem State.putView_draws_le (s : State) (w : Width) (i : RegIx) (v : BitVec w.bits) (u : Bool) :
    s.draws ≤ (s.putView w i v u).draws := by
  unfold State.putView
  dsimp only
  split
  · simp
  · split <;> simp

theorem State.setView_draws_le (s : State) (w : Width) (i : RegIx) (v : BitVec w.bits) :
    s.draws ≤ (s.setView w i v).draws := s.putView_draws_le w i v false

theorem State.setViewFree_draws_lt (s : State) (w : Width) (i : RegIx) : s.draws < (s.setViewFree w i).draws :=
  Nat.lt_of_lt_of_le (Nat.lt_succ_self _) (s.tick.putView_draws_le w i (s.free.setWidth w.bits) true)

/-- The bits written are read back (R33, R34). -/
theorem State.view_putView_self {s : State} {w : Width} {i : RegIx} (hf : s.Fits w) (v : BitVec w.bits) (u : Bool) :
    (s.putView w i v u).view w i = v := by
  obtain ⟨hb, hfit⟩ := hf
  cases hl : s.params.regLayout with
  | byteOverlap =>
    rw [State.view_byteOverlap (by simpa using hl), State.putView_activeBank hb]
    simp only [hl, State.putView_params]
    apply ofNat_beToNat_eq w v _ (by simp)
    intro k hk
    rw [readCells_getElem]
    simp only [readCells_length] at hk
    rw [setCells_get (by omega) _ _ _ (by simpa using hfit hl) k (by simpa using hk), valueByte w v k hk]
  | cell32 =>
    rw [State.view_cell32 (by simpa using hl), State.putView_activeBank hb]
    simp only [hl]
    rw [vector_get_set, if_pos rfl]
    split
    · exact setWidth_back w v
    · exact overlay_low w _ v

theorem cells_apart {s : State} {w w' : Width} {i j : RegIx} (hl : s.params.regLayout = .byteOverlap) (hi : s.HasReg i)
    (h : Apart s.params w i w' j) {k l : Nat} (hk : k < w.bytes) (hl' : l < w'.bytes) :
    cellIndex s.params.numIntRegs (i.toNat + k) ≠ cellIndex s.params.numIntRegs (j.toNat + l) := by
  have hn : 0 < s.params.numIntRegs.val := by unfold State.HasReg at hi; omega
  simp only [Apart, hl] at h
  rw [ne_eq, cellIndex_eq_iff hn (by omega)]
  exact h k hk l hl'

theorem cells_meet {s : State} {w w' : Width} {i j : RegIx} (hl : s.params.regLayout = .byteOverlap) (hi : s.HasReg i)
    (h : ¬ Apart s.params w i w' j) : ∃ l < w'.bytes, ∃ k < w.bytes,
      cellIndex s.params.numIntRegs (i.toNat + k) = cellIndex s.params.numIntRegs (j.toNat + l) := by
  have hn : 0 < s.params.numIntRegs.val := by unfold State.HasReg at hi; omega
  by_contra hc
  apply h
  simp only [Apart, hl]
  intro k hk l hl' e
  exact hc ⟨l, hl', k, hk, (cellIndex_eq_iff hn (by omega) _ _).mpr e⟩

theorem cell_ne {i j : RegIx} (h : i ≠ j) : j.toFin ≠ i.toFin :=
  fun e => h (BitVec.eq_of_toNat_eq (by simpa using congrArg Fin.val e.symm))

/-- A write leaves every view apart from it (R33, R34). -/
theorem State.view_putView_apart {s : State} {w : Width} {i : RegIx} (hi : s.HasReg i) (v : BitVec w.bits) (u : Bool)
    (w' : Width) (j : RegIx) (h : Apart s.params w i w' j) :
    (s.putView w i v u).view w' j = s.view w' j ∧ (s.putView w i v u).viewUndef w' j = s.viewUndef w' j := by
  by_cases hb : s.bank < s.banks.length
  · cases hl : s.params.regLayout with
    | byteOverlap =>
      simp only [State.view, State.viewUndef, State.putView_params, hl, State.putView_activeBank hb]
      constructor
      · congr 2
        apply List.ext_getElem (by simp)
        intro k h1 h2
        rw [readCells_getElem, readCells_getElem]
        simp only [readCells_length] at h1
        exact setCells_get_apart _ _ _ _ _ fun l hlt => cells_apart hl hi h (by simpa using hlt) h1
      · congr 1
        apply List.ext_getElem (by simp)
        intro k h1 h2
        rw [readCells_getElem, readCells_getElem]
        simp only [readCells_length] at h1
        exact setCells_get_apart _ _ _ _ _ fun l hlt => cells_apart hl hi h (by simpa using hlt) h1
    | cell32 =>
      simp only [Apart, hl] at h
      simp only [State.view, State.viewUndef, State.putView_params, hl, State.putView_activeBank hb, vector_get_set,
        if_neg (cell_ne h), and_self]
  · have ha := State.putView_activeBank_none hb w i v u
    exact ⟨State.view_congr (by simp) ha w' j, State.viewUndef_congr (by simp) ha w' j⟩

theorem allBits_setWidth (w : Width) (u : Bool) : ((allBits u).setWidth w.bits != 0#w.bits) = u := by
  cases u <;> cases w <;> decide

/-- The UNDEF marks of the view written (R33, R34). -/
theorem State.viewUndef_putView_self {s : State} {w : Width} {i : RegIx} (hb : s.bank < s.banks.length)
    (v : BitVec w.bits) (u : Bool) : (s.putView w i v u).viewUndef w i = u := by
  cases hl : s.params.regLayout with
  | byteOverlap =>
    simp only [State.viewUndef, State.putView_params, hl, State.putView_activeBank hb]
    have hw : 0 < w.bytes := by cases w <;> decide
    have hg (k : Nat) (hk : k < w.bytes) : (setCells s.params.numIntRegs s.activeBank.bytesUndef i.toNat
        (List.replicate w.bytes u)).get (cellIndex s.params.numIntRegs (i.toNat + k)) = u :=
      setCells_replicate_get _ _ _ _ _ _ ⟨k, hk, rfl⟩
    rw [Bool.eq_iff_iff, readCells_any]
    exact ⟨fun ⟨k, hk, h⟩ => by rwa [hg k hk] at h, fun h => ⟨0, hw, by rw [hg 0 hw, h]⟩⟩
  | cell32 =>
    simp only [State.viewUndef, State.putView_params, hl, State.putView_activeBank hb, vector_get_set, if_true, overlay_low]
    exact allBits_setWidth w u

/-- Every view that shares storage with one given UNDEF is UNDEF (42_shift_bit.md R240). -/
theorem State.viewUndef_putView_meet {s : State} {w : Width} {i : RegIx} (hi : s.HasReg i) (hb : s.bank < s.banks.length)
    (v : BitVec w.bits) (w' : Width) (j : RegIx) (h : ¬ Apart s.params w i w' j) :
    (s.putView w i v true).viewUndef w' j = true := by
  cases hl : s.params.regLayout with
  | byteOverlap =>
    simp only [State.viewUndef, State.putView_params, hl, State.putView_activeBank hb]
    obtain ⟨l, hl', k, hk, he⟩ := cells_meet hl hi h
    rw [readCells_any]
    exact ⟨l, hl', setCells_replicate_get _ _ _ _ _ _ ⟨k, hk, he⟩⟩
  | cell32 =>
    simp only [Apart, hl, not_not] at h
    subst h
    simp only [State.viewUndef, State.putView_params, hl, State.putView_activeBank hb, vector_get_set, if_true]
    cases w <;> cases w' <;> decide

/-- The bits above a narrow write become UNDEF (R34, `Cell32`). -/
theorem State.viewUndef_putView_above {s : State} {w : Width} {i : RegIx} (hb : s.bank < s.banks.length)
    (hl : s.params.regLayout = .cell32) (v : BitVec w.bits) (u : Bool) (w' : Width) (h : w.bits < w'.bits) :
    (s.putView w i v u).viewUndef w' i = true := by
  simp only [State.viewUndef, State.putView_params, hl, State.putView_activeBank hb, vector_get_set, if_true]
  revert h
  cases u <;> cases w <;> cases w' <;> decide

theorem State.float_putView (s : State) (w : Width) (i : RegIx) (v : BitVec w.bits) (u : Bool) (j : FloatIx) :
    (s.putView w i v u).float j = s.float j ∧ (s.putView w i v u).floatUndef j = s.floatUndef j := by
  by_cases hb : s.bank < s.banks.length
  · simp only [State.float, State.floatUndef, State.putView_activeBank hb]
    split <;> exact ⟨rfl, rfl⟩
  · have ha := State.putView_activeBank_none hb w i v u
    exact ⟨State.float_congr ha j, State.floatUndef_congr ha j⟩

/-- Everything a write to a register view does to the registers. -/
theorem State.putView_becomes {s : State} {i : RegIx} (hi : s.HasReg i) (w : Width) (v : BitVec w.bits) (u : Bool) :
    RegBecomes u w i v s (s.putView w i v u) where
  value hf := State.view_putView_self hf v u
  defined hb hu := by rw [State.viewUndef_putView_self hb, hu]
  undefined hb hu w' j h := by subst hu; exact State.viewUndef_putView_meet hi hb v w' j h
  above hb hl w' h := State.viewUndef_putView_above hb hl v u w' h
  apart w' j h := State.view_putView_apart hi v u w' j h
  floats j := s.float_putView w i v u j
  others := s.putView_otherBanks w i v u

theorem State.setView_written {s : State} {i : RegIx} (hi : s.HasReg i) (w : Width) (v : BitVec w.bits) :
    RegWritten w i v s (s.setView w i v) := State.putView_becomes hi w v false

theorem RegBecomes.congr {u : Bool} {w : Width} {i : RegIx} {v : BitVec w.bits} {s t t' : State} (h : RegBecomes u w i v s t)
    (hp : t'.params = t.params) (hb : t'.banks = t.banks) (hk : t'.bank = t.bank) : RegBecomes u w i v s t' := by
  have ha := State.activeBank_congr hb hk
  have hv := State.view_congr hp ha
  have hu := State.viewUndef_congr hp ha
  exact ⟨fun hf => by rw [hv]; exact h.value hf, fun h1 h2 => by rw [hu]; exact h.defined h1 h2,
    fun h1 h2 w' j h3 => by rw [hu]; exact h.undefined h1 h2 w' j h3,
    fun h1 h2 w' h3 => by rw [hu]; exact h.above h1 h2 w' h3, fun w' j h1 => by rw [hv, hu]; exact h.apart w' j h1,
    fun j => by rw [State.float_congr ha, State.floatUndef_congr ha]; exact h.floats j,
    by rw [hb]; exact h.others.1, fun k hk' => by rw [hb]; exact h.others.2 k hk'⟩

theorem RegBecomes.congr_left {u : Bool} {w : Width} {i : RegIx} {v : BitVec w.bits} {s s' t : State}
    (h : RegBecomes u w i v s t) (hp : s'.params = s.params) (hb : s'.banks = s.banks) (hk : s'.bank = s.bank) :
    RegBecomes u w i v s' t := by
  have ha := State.activeBank_congr hb hk
  refine ⟨fun hf => h.value (by simpa [State.Fits, hp, hb, hk] using hf), fun h1 h2 => h.defined (by rwa [← hb, ← hk]) h2,
    fun h1 h2 w' j h3 => h.undefined (by rwa [← hb, ← hk]) h2 w' j (by rwa [← hp]),
    fun h1 h2 w' h3 => h.above (by rwa [← hb, ← hk]) (by rwa [← hp]) w' h3, fun w' j h1 => ?_, fun j => ?_, ?_⟩
  · rw [State.view_congr hp ha, State.viewUndef_congr hp ha]; exact h.apart w' j (by rwa [← hp])
  · rw [State.float_congr ha, State.floatUndef_congr ha]; exact h.floats j
  · exact ⟨by rw [hb]; exact h.others.1, fun k hk' => by rw [hb]; exact h.others.2 k (by rwa [← hk])⟩

/-- Writing UNDEF to a register view. -/
theorem State.setViewFree_undef {s : State} {i : RegIx} (hi : s.HasReg i) (w : Width) : RegUndef w i s (s.setViewFree w i) :=
  ⟨s.free, ⟨s.draws, Nat.le_refl _, s.setViewFree_draws_lt w i, rfl⟩,
    (State.putView_becomes (s := s.tick) hi w _ true).congr_left rfl rfl rfl⟩

theorem RegUndef.congr {w : Width} {i : RegIx} {s t t' : State} (h : RegUndef w i s t)
    (hp : t'.params = t.params) (hb : t'.banks = t.banks) (hk : t'.bank = t.bank) (hd : t.draws ≤ t'.draws) :
    RegUndef w i s t' := by
  obtain ⟨v, ⟨n, h1, h2, h3⟩, h4⟩ := h
  exact ⟨v, ⟨n, h1, by omega, h3⟩, h4.congr hp hb hk⟩

/-! ## Float registers -/

theorem State.setFloat_written (s : State) (j : FloatIx) (p : Word) : FloatWritten j p s (s.setFloat j p) := by
  have hset (k : FloatIx) (hb : s.bank < s.banks.length) :
      (s.setFloat j p).float k = (if k = j then p else s.float k) ∧
        (s.setFloat j p).floatUndef k = if k = j then false else s.floatUndef k := by
    simp only [State.float, State.floatUndef, State.setFloat, State.activeBank_setActiveBank hb, vector_get_set]
    by_cases h : k = j
    · simp [h]
    · have : k.toFin ≠ j.toFin := fun e => h (BitVec.eq_of_toNat_eq (by simpa using congrArg Fin.val e))
      simp [h, this]
  refine ⟨fun hb => by simp [hset j hb], fun k hk => ?_, fun w i => ?_, OtherBanksSame.setActiveBank s _⟩
  · by_cases hb : s.bank < s.banks.length
    · simp [hset k hb, hk]
    · have ha : (s.setFloat j p).activeBank = s.activeBank := State.activeBank_setActiveBank_none hb _
      exact ⟨State.float_congr ha k, State.floatUndef_congr ha k⟩
  · by_cases hb : s.bank < s.banks.length
    · simp only [State.view, State.viewUndef, State.setFloat, State.activeBank_setActiveBank hb, State.setActiveBank_params,
        and_self]
    · have ha : (s.setFloat j p).activeBank = s.activeBank := State.activeBank_setActiveBank_none hb _
      exact ⟨State.view_congr (s := s) (t := s.setFloat j p) rfl ha w i,
        State.viewUndef_congr (s := s) (t := s.setFloat j p) rfl ha w i⟩

theorem FloatWritten.congr {j : FloatIx} {p : Word} {s t t' : State} (h : FloatWritten j p s t)
    (hp : t'.params = t.params) (hb : t'.banks = t.banks) (hk : t'.bank = t.bank) : FloatWritten j p s t' := by
  have ha := State.activeBank_congr hb hk
  have hf := State.float_congr ha
  have hu := State.floatUndef_congr ha
  refine ⟨fun h1 => ?_, fun k hk => ?_, fun w i => ?_, ?_⟩
  · rw [hf, hu]; exact h.value h1
  · rw [hf, hu]; exact h.apart k hk
  · rw [State.view_congr hp ha, State.viewUndef_congr hp ha]; exact h.views w i
  · exact ⟨by rw [hb]; exact h.others.1, fun k hk' => by rw [hb]; exact h.others.2 k hk'⟩

theorem readFloatReg_ok {j : FloatIx} {s : State} (h : s.floatUndef j = false) : readFloatReg j s = .ok (s.float j) := by
  simp [readFloatReg, h]

theorem readFloatReg_undefined {j : FloatIx} {s : State} (h : s.floatUndef j = true) :
    readFloatReg j s = .error .readUndefined := by simp [readFloatReg, h]

/-- What a read of a float register answers. -/
theorem readFloatReg_eq_ok {j : FloatIx} {s : State} {p : Word} (h : readFloatReg j s = .ok p) :
    s.floatUndef j = false ∧ p = s.float j := by
  unfold readFloatReg at h
  split at h
  · cases h
  · next hu => exact ⟨by simpa using hu, (Except.ok.inj h).symm⟩

/-! ## Checked reads and writes -/

theorem checkReg_ok {i : RegIx} {s : State} (h : s.HasReg i) : checkReg i s = .ok () := if_pos h

theorem checkReg_error {i : RegIx} {s : State} (h : ¬ s.HasReg i) : checkReg i s = .error .regIndexOutOfRange := if_neg h

theorem readReg_ok {w : Width} {i : RegIx} {s : State} (h : s.HasReg i) (hu : s.viewUndef w i = false) :
    readReg w i s = .ok (s.view w i) := by
  simp only [readReg, checkReg_ok h, hu]; rfl

@[simp] theorem readReg_error {i : RegIx} {s : State} (h : ¬ s.HasReg i) (w : Width) :
    readReg w i s = .error .regIndexOutOfRange := by
  simp only [readReg, checkReg_error h]; rfl

theorem readReg_undefined {w : Width} {i : RegIx} {s : State} (h : s.HasReg i) (hu : s.viewUndef w i = true) :
    readReg w i s = .error .readUndefined := by
  simp only [readReg, checkReg_ok h, hu]; rfl

@[simp] theorem writeReg_ok {i : RegIx} {s : State} (h : s.HasReg i) (w : Width) (v : BitVec w.bits) :
    writeReg w i v s = .ok (s.setView w i v) := by
  simp [writeReg, checkReg_ok h]

/-- What a read of a register answers. -/
theorem readReg_eq_ok {w : Width} {i : RegIx} {s : State} {v : BitVec w.bits} (h : readReg w i s = .ok v) :
    s.HasReg i ∧ v = s.view w i ∧ s.viewUndef w i = false := by
  by_cases hi : s.HasReg i
  · cases hu : s.viewUndef w i with
    | true => rw [readReg_undefined hi hu] at h; cases h
    | false => rw [readReg_ok hi hu] at h; exact ⟨hi, (Except.ok.inj h).symm, rfl⟩
  · rw [readReg_error hi] at h
    cases h

/-- What a write of a register answers. -/
theorem writeReg_eq_ok {w : Width} {i : RegIx} {s t : State} {v : BitVec w.bits} (h : writeReg w i v s = .ok t) :
    s.HasReg i ∧ t = s.setView w i v := by
  by_cases hi : s.HasReg i
  · rw [writeReg_ok hi] at h
    exact ⟨hi, (Except.ok.inj h).symm⟩
  · simp [writeReg, checkReg_error hi] at h

end Sys2Proof.Machine
end

