-- ==== Sys2Proof/Laws/Operands.lean ====
section
/-! SUPPORT. Operands (40_dispatch.md R167 to R169): an operand that can be read can be written, and what a write does. The
small laws of `Unchanged`, `Drawn` and the flag updates. -/

namespace Sys2Proof.Machine

/-! ## What stays as it was -/

theorem Unchanged.refl (fs : List Field) (s : State) : Unchanged fs s s :=
  ⟨rfl, fun f _ => by cases f <;> first | exact rfl | exact ⟨rfl, rfl⟩⟩

theorem Field.Same.trans {f : Field} {s t u : State} (h : f.Same s t) (h' : f.Same t u) : f.Same s u := by
  cases f <;> first | exact Eq.trans h' h | exact ⟨h'.1.trans h.1, h'.2.trans h.2⟩

theorem Unchanged.trans {fs : List Field} {s t u : State} (h : Unchanged fs s t) (h' : Unchanged fs t u) :
    Unchanged fs s u :=
  ⟨h'.1.trans h.1, fun f hf => (h.2 f hf).trans (h'.2 f hf)⟩

theorem Unchanged.mono {fs gs : List Field} {s t : State} (h : Unchanged fs s t) (hs : fs ⊆ gs) : Unchanged gs s t :=
  ⟨h.1, fun f hf => h.2 f (fun hm => hf (hs hm))⟩

/-- Nothing but the listed fields changed, field by field. -/
theorem Unchanged.of {fs : List Field} {s t : State} (hp : t.params = s.params)
    (h1 : Field.banks ∈ fs ∨ t.banks = s.banks) (h2 : Field.bank ∈ fs ∨ t.bank = s.bank)
    (h3 : Field.flag ∈ fs ∨ (t.flag = s.flag ∧ t.flagUndef = s.flagUndef)) (h4 : Field.ipo ∈ fs ∨ t.ipo = s.ipo) (h5 : Field.spc ∈ fs ∨ t.spc = s.spc)
    (h6 : Field.cs ∈ fs ∨ t.cs = s.cs) (h7 : Field.hmem ∈ fs ∨ t.hmem = s.hmem)
    (h8 : Field.running ∈ fs ∨ t.running = s.running) (h9 : Field.rng ∈ fs ∨ t.rng = s.rng)
    (h10 : Field.mem ∈ fs ∨ t.mem = s.mem) (h11 : Field.events ∈ fs ∨ t.events = s.events) : Unchanged fs s t := by
  refine ⟨hp, fun f hf => ?_⟩
  cases f <;> simp_all [Field.Same]

/-! ## Free values and flags -/

theorem drawn_free (s t : State) (h : s.draws < t.draws) : Drawn s.free s t := ⟨s.draws, Nat.le_refl _, h, rfl⟩

theorem Drawn.mono {v : Word} {s s' t t' : State} (h : Drawn v s t) (hs : s'.draws ≤ s.draws) (ht : t.draws ≤ t'.draws) :
    Drawn v s' t' := by
  obtain ⟨n, h1, h2, h3⟩ := h
  exact ⟨n, by omega, by omega, h3⟩

theorem allBits_getLsbD (b : Bool) (n : FlagIx) : (allBits b).getLsbD n.toNat = b := by
  revert n
  cases b <;> decide

/-- The flags after `undefFlags` are UNDEF (10_state.md R42). -/
theorem State.undefFlags_undef {s t : State} (h : s.draws ≤ t.draws) : FlagsUndef s t.undefFlags :=
  ⟨⟨t.draws, h, by simp, rfl⟩, fun n => by rw [State.flagBitUndef, State.undefFlags_flagUndef, allBits_getLsbD]⟩

theorem State.undefFlags_unchanged (s : State) : Unchanged [.flag] s s.undefFlags := by
  apply Unchanged.of <;> simp

theorem putBit_getLsbD (v : Word) (n m : FlagIx) (b : Bool) :
    (putBit v n b).getLsbD m.toNat = if m = n then b else v.getLsbD m.toNat := by
  have hm : m.toNat < 32 := m.isLt
  have hn : n.toNat < 32 := n.isLt
  have hone (h : ¬ m = n) : ((1#32 <<< n.toNat).getLsbD m.toNat) = false := by
    have : m.toNat ≠ n.toNat := fun e => h (BitVec.eq_of_toNat_eq e)
    simp only [BitVec.getLsbD_shiftLeft, BitVec.getLsbD_one]
    by_cases hlt : m.toNat < n.toNat
    · simp [hlt]
    · have : m.toNat - n.toNat ≠ 0 := by omega
      simp [this]
  unfold putBit
  by_cases h : m = n
  · subst h
    cases b <;> simp [hm]
  · rw [if_neg h]
    have h1 := hone h
    have e : (1 : Word) = 1#32 := rfl
    cases b
    · simp only [Bool.false_eq_true, if_false, BitVec.getLsbD_and, BitVec.getLsbD_not, e, h1, hm]
      simp
    · simp only [if_true, BitVec.getLsbD_or, e, h1, Bool.or_false]

theorem State.flagBit_setFlagBit (s : State) (n m : FlagIx) (b : Bool) :
    (s.setFlagBit n b).flagBit m = if m = n then b else s.flagBit m := putBit_getLsbD s.flag n m b

theorem State.flagBitUndef_setFlagBit (s : State) (n m : FlagIx) (b : Bool) :
    (s.setFlagBit n b).flagBitUndef m = if m = n then false else s.flagBitUndef m := putBit_getLsbD s.flagUndef n m false

theorem readFlag_ok {n : FlagIx} {s : State} (h : s.flagBitUndef n = false) : readFlag n s = .ok (s.flagBit n) := by
  simp [readFlag, h]

theorem readFlag_undefined {n : FlagIx} {s : State} (h : s.flagBitUndef n = true) :
    readFlag n s = .error .readUndefined := by simp [readFlag, h]

/-- What a read of a flag answers. -/
theorem readFlag_eq_ok {n : FlagIx} {s : State} {b : Bool} (h : readFlag n s = .ok b) :
    s.flagBitUndef n = false ∧ b = s.flagBit n := by
  unfold readFlag at h
  split at h
  · cases h
  · next hu => exact ⟨by simpa using hu, (Except.ok.inj h).symm⟩

/-- The flags after `undefFlagsBut` (44_float.md R323, 42_shift_bit.md R247). -/
theorem State.undefFlagsBut_undef {s t : State} (h : s.draws ≤ t.draws) (n : FlagIx) (b : Bool) :
    FlagsUndefBut n b s (t.undefFlagsBut n b) :=
  ⟨by simp [State.undefFlagsBut, State.flagBit_setFlagBit], by simp [State.undefFlagsBut, State.flagBitUndef_setFlagBit],
    t.free, ⟨t.draws, h, by simp, rfl⟩, fun m hm => by
      simp only [State.undefFlagsBut, State.flagBit_setFlagBit, State.flagBitUndef_setFlagBit, if_neg hm]
      exact ⟨rfl, (State.undefFlags_undef (Nat.le_refl _)).2 m⟩⟩

theorem State.undefFlagsBut_unchanged (s : State) (n : FlagIx) (b : Bool) : Unchanged [.flag] s (s.undefFlagsBut n b) := by
  apply Unchanged.of <;> simp

/-! ## Registers and memory as steps of `Unchanged` -/

theorem State.setView_unchanged (s : State) (w : Width) (i : RegIx) (v : BitVec w.bits) :
    Unchanged [.banks] s (s.setView w i v) := by apply Unchanged.of <;> simp

theorem State.setViewFree_unchanged (s : State) (w : Width) (i : RegIx) : Unchanged [.banks] s (s.setViewFree w i) := by
  apply Unchanged.of <;> simp

theorem State.setFloat_unchanged (s : State) (j : FloatIx) (p : Word) : Unchanged [.banks] s (s.setFloat j p) := by
  apply Unchanged.of <;> simp

theorem State.setMem_unchanged (s : State) (m : List Host.Cell) : Unchanged [.mem] s { s with mem := m } := by
  apply Unchanged.of <;> simp

/-! ## Places -/

/-- What reading a place has established. -/
theorem readPlace_eq_ok {w : Width} {p : Place} {s : State} {v : BitVec w.bits} (h : readPlace w p s = .ok v) :
    (∃ x, p = .reg x ∧ readReg w x s = .ok v) ∨ ∃ m a, p = .mem m ∧ m.address s = .ok a ∧ readMem w a s = .ok v := by
  cases p with
  | reg x =>
    exact .inl ⟨x, rfl, h⟩
  | mem m =>
    simp only [readPlace] at h
    cases ha : m.address s with
    | error e => rw [ha] at h; cases h
    | ok a => rw [ha] at h; exact .inr ⟨m, a, rfl, ha, h⟩

/-- An operand that can be read can be written (40_dispatch.md R171), and the write changes that operand only. -/
theorem writePlace_wrote {w : Width} {p : Place} {s : State} {d : BitVec w.bits} (h : readPlace w p s = .ok d)
    (v : BitVec w.bits) :
    ∃ t, writePlace w p v s = .ok t ∧ p.Wrote w v s t ∧ Unchanged [.banks, .mem] s t ∧ s.draws ≤ t.draws := by
  rcases readPlace_eq_ok h with ⟨x, rfl, hx⟩ | ⟨m, a, rfl, ha, hr⟩
  · have hx := (readReg_eq_ok hx).1
    exact ⟨s.setView w x v, writeReg_ok hx w v, ⟨State.setView_written hx w v, by simp⟩,
      (s.setView_unchanged w x v).mono (by simp), s.setView_draws_le w x v⟩
  · have hb := (readMem_eq_ok hr).1
    refine ⟨{ s with mem := putBytes s.mem a.toNat (natToBe w.bytes v.toNat) }, ?_, ⟨fun a' ha' => ?_, rfl⟩,
      (s.setMem_unchanged _).mono (by simp), Nat.le_refl _⟩
    · simp only [writePlace, ha]
      exact writeMem_ok v hb
    · obtain rfl : a = a' := Except.ok.inj (ha.symm.trans ha')
      exact putBytes_written w a.toNat v s

theorem Place.Wrote.congr {w : Width} {p : Place} {v : BitVec w.bits} {s t t' : State} (h : p.Wrote w v s t)
    (hp : t'.params = t.params) (hb : t'.banks = t.banks) (hk : t'.bank = t.bank) (hm : t'.mem = t.mem) :
    p.Wrote w v s t' := by
  cases p with
  | reg x => exact ⟨h.1.congr hp hb hk, hm.trans h.2⟩
  | mem m => exact ⟨fun a ha => (h.1 a ha).congr hm, hb.trans h.2⟩

@[simp] theorem readSource_imm (w : Width) (v : BitVec w.bits) (s : State) : readSource w (.imm v) s = .ok v := rfl

@[simp] theorem readSource_place (w : Width) (p : Place) (s : State) : readSource w (.place p) s = readPlace w p s := rfl

@[simp] theorem readPlace_reg (w : Width) (x : RegIx) (s : State) : readPlace w (.reg x) s = readReg w x s := rfl

@[simp] theorem address_abs (a : Addr) (s : State) : (MemRef.abs a).address s = .ok a := rfl

@[simp] theorem address_reg (x : RegIx) (s : State) : (MemRef.reg x).address s = readReg .w24 x s := rfl

/-! ## What an operation that answers has done: nothing but the listed fields changed -/

theorem writePlace_eq_ok {w : Width} {p : Place} {s t : State} {v : BitVec w.bits} (h : writePlace w p v s = .ok t) :
    (∃ x, p = .reg x ∧ s.HasReg x ∧ t = s.setView w x v) ∨
    ∃ m a, p = .mem m ∧ m.address s = .ok a ∧ a.toNat + w.bytes ≤ memSize ∧
      t = { s with mem := putBytes s.mem a.toNat (natToBe w.bytes v.toNat) } := by
  cases p with
  | reg x =>
    obtain ⟨h1, h2⟩ := writeReg_eq_ok h
    exact .inl ⟨x, rfl, h1, h2⟩
  | mem m =>
    simp only [writePlace] at h
    cases ha : m.address s with
    | error e => rw [ha] at h; cases h
    | ok a =>
      rw [ha] at h
      change writeMem w a v s = .ok t at h
      by_cases hr : a.toNat + w.bytes ≤ memSize
      · rw [writeMem_ok v hr] at h
        exact .inr ⟨m, a, rfl, ha, hr, (Except.ok.inj h).symm⟩
      · rw [writeMem_error v (by omega)] at h
        cases h

end Sys2Proof.Machine
end

