-- ==== Sys2Proof/Laws/Ops.lean ====
section
/-! SUPPORT. One lemma for each shared operation of the integer families: what it does when its operands can be read, and the
fault it ends in otherwise (41_arith_logic.md, 42_shift_bit.md). -/

namespace Sys2Proof.Machine

@[simp] theorem finish_ok (s : State) : finish (.ok s) = .next s := rfl

@[simp] theorem finish_error (f : Fault) : finish (.error f) = .fault f := rfl

theorem finish_eq_next {e : Except Fault State} {t : State} (h : finish e = .next t) : e = .ok t := by
  cases e with
  | error f => cases h
  | ok s => exact congrArg _ (Host.Outcome.next.inj h)

theorem bind_eq_ok {α β : Type} {x : Except Fault α} {f : α → Except Fault β} {b : β} (h : (x >>= f) = .ok b) :
    ∃ a, x = .ok a ∧ f a = .ok b := by
  cases x with
  | error e => cases h
  | ok a => exact ⟨a, rfl, h⟩

@[simp] theorem bind_ok {α β : Type} (a : α) (f : α → Except Fault β) : (Except.ok a >>= f) = f a := rfl

@[simp] theorem bind_error {α β : Type} (e : Fault) (f : α → Except Fault β) : (Except.error e >>= f) = .error e := rfl

@[simp] theorem pure_eq_ok {α : Type} (a : α) : (pure a : Except Fault α) = .ok a := rfl

/-- The binary template (41_arith_logic.md R200) when both operands can be read. -/
theorem binary_completes {w : Width} (f : BitVec w.bits → BitVec w.bits → BitVec w.bits) {dst : Place} {src : Source w}
    {s : State} {d x : BitVec w.bits} (hd : readPlace w dst s = .ok d) (hx : readSource w src s = .ok x) :
    ∃ t, binary w f dst src s = .ok t ∧ dst.Wrote w (f d x) s t ∧ FlagsUndef s t ∧
      Unchanged [.banks, .mem, .flag] s t := by
  obtain ⟨t, h1, h2, h3, h4⟩ := writePlace_wrote hd (f d x)
  refine ⟨t.undefFlags, ?_, h2.congr (by simp) (by simp) (by simp) (by simp), State.undefFlags_undef h4,
    (h3.mono (by simp)).trans (t.undefFlags_unchanged.mono (by simp))⟩
  simp [binary, hd, hx, h1]

/-- The binary template when the first operand cannot be read. -/
theorem binary_fault_first {w : Width} (f : BitVec w.bits → BitVec w.bits → BitVec w.bits) {dst : Place} (src : Source w)
    {s : State} {e : Fault} (hd : readPlace w dst s = .error e) : binary w f dst src s = .error e := by
  simp [binary, hd]

/-- The binary template when only the second operand cannot be read. -/
theorem binary_fault_second {w : Width} (f : BitVec w.bits → BitVec w.bits → BitVec w.bits) {dst : Place} {src : Source w}
    {s : State} {d : BitVec w.bits} {e : Fault} (hd : readPlace w dst s = .ok d) (hx : readSource w src s = .error e) :
    binary w f dst src s = .error e := by
  simp [binary, hd, hx]

/-- The read-modify-write of one operand (41_arith_logic.md R211 to R213). -/
theorem modify_completes {w : Width} (f : BitVec w.bits → BitVec w.bits) {dst : Place} {s : State} {d : BitVec w.bits}
    (hd : readPlace w dst s = .ok d) :
    ∃ t, modify w f dst s = .ok t ∧ dst.Wrote w (f d) s t ∧ FlagsUndef s t ∧ Unchanged [.banks, .mem, .flag] s t := by
  obtain ⟨t, h1, h2, h3, h4⟩ := writePlace_wrote hd (f d)
  refine ⟨t.undefFlags, ?_, h2.congr (by simp) (by simp) (by simp) (by simp), State.undefFlags_undef h4,
    (h3.mono (by simp)).trans (t.undefFlags_unchanged.mono (by simp))⟩
  simp [modify, hd, h1]

/-- A register written, then every flag UNDEF: the end of most register operations. -/
theorem setView_undefFlags {s : State} {a : RegIx} (ha : s.HasReg a) (w : Width) (v : BitVec w.bits) :
    RegWritten w a v s (s.setView w a v).undefFlags ∧ FlagsUndef s (s.setView w a v).undefFlags ∧
      Unchanged [.banks, .flag] s (s.setView w a v).undefFlags :=
  ⟨(State.setView_written ha w v).congr (by simp) (by simp) (by simp), State.undefFlags_undef (s.setView_draws_le w a v),
    ((s.setView_unchanged w a v).mono (by simp)).trans ((State.undefFlags_unchanged _).mono (by simp))⟩

/-- A register written with UNDEF, then every flag UNDEF. -/
theorem setViewFree_undefFlags {s : State} {a : RegIx} (ha : s.HasReg a) (w : Width) :
    RegUndef w a s (s.setViewFree w a).undefFlags ∧ FlagsUndef s (s.setViewFree w a).undefFlags ∧
      Unchanged [.banks, .flag] s (s.setViewFree w a).undefFlags := by
  have hlt := s.setViewFree_draws_lt w a
  exact ⟨(State.setViewFree_undef ha w).congr (by simp) (by simp) (by simp) (by simp),
    State.undefFlags_undef (by omega),
    ((s.setViewFree_unchanged w a).mono (by simp)).trans ((State.undefFlags_unchanged _).mono (by simp))⟩

/-- SL, SR, RL, RR, SET, RES (42_shift_bit.md R240): the value, or UNDEF, in the target register. -/
theorem shiftBy_completes {w : Width} (f : BitVec w.bits → Nat → Option (BitVec w.bits)) {a : RegIx} {n : Source .w8}
    {s : State} {d : BitVec w.bits} {k : Byte} (hd : readReg w a s = .ok d) (hk : readSource .w8 n s = .ok k) :
    ∃ t, shiftBy w f a n s = .ok t ∧ (∀ v, f d k.toNat = some v → RegWritten w a v s t) ∧
      (f d k.toNat = none → RegUndef w a s t) ∧ FlagsUndef s t ∧ Unchanged [.banks, .flag] s t := by
  have hk' : readSource .w8 n s = .ok k := hk
  have ha := (readReg_eq_ok hd).1
  cases hf : f d k.toNat with
  | some v =>
    obtain ⟨h1, h2, h3⟩ := setView_undefFlags ha w v
    refine ⟨(s.setView w a v).undefFlags, ?_, fun v' hv => ?_, nofun, h2, h3⟩
    · simp [shiftBy, hd, hk', hf]
    · cases hv; exact h1
  | none =>
    obtain ⟨h1, h2, h3⟩ := setViewFree_undefFlags ha w
    exact ⟨(s.setViewFree w a).undefFlags, by simp [shiftBy, hd, hk', hf], nofun, fun _ => h1, h2, h3⟩

/-- MIN and MAX with a float source (41_arith_logic.md R207, R208). -/
theorem pickFloat_completes {w : Width} (pick : Nat → Nat → Nat) {a : RegIx} {fb : FloatIx} {s : State} {d : BitVec w.bits}
    {p : Word} (hd : readReg w a s = .ok d) (hp : readFloatReg fb s = .ok p) :
    ∃ t, pickFloat w pick a fb s = .ok t ∧ FlagsUndef s t ∧ Unchanged [.banks, .flag] s t ∧
      (isNaN p = true → RegUndef w a s t) ∧
      (isNaN p = false →
        let r := pick (d.toNat * floatOne) (floatMag p) / floatOne
        (r < 2 ^ w.bits → RegWritten w a (drawnOr s d (BitVec.ofNat w.bits r)) s t) ∧
        (2 ^ w.bits ≤ r → t.banks = s.banks)) := by
  have ha := (readReg_eq_ok hd).1
  cases hn : isNaN p with
  | true =>
    obtain ⟨h1, h2, h3⟩ := setViewFree_undefFlags ha w
    exact ⟨(s.setViewFree w a).undefFlags, by simp [pickFloat, hd, hp, hn], h2, h3, fun _ => h1, nofun⟩
  | false =>
    by_cases hr : pick (d.toNat * floatOne) (floatMag p) / floatOne < 2 ^ w.bits
    · obtain ⟨h1, h2, h3⟩ := setView_undefFlags (s := s.tick) ha w
        (drawnOr s d (BitVec.ofNat w.bits (pick (d.toNat * floatOne) (floatMag p) / floatOne)))
      refine ⟨_, ?_, ⟨h2.1.mono (by simp) (Nat.le_refl _), h2.2⟩, ?_, nofun,
        fun _ => ⟨fun _ => h1.congr_left rfl rfl rfl, fun h => by omega⟩⟩
      · simp only [pickFloat, hd, hp, hn, bind_ok, hr, if_true, Bool.false_eq_true, if_false]; rfl
      · exact ((Unchanged.of (by simp) (by simp) (by simp) (by simp) (by simp) (by simp) (by simp) (by simp) (by simp)
          (by simp) (by simp) (by simp) : Unchanged [.banks, .flag] s s.tick)).trans h3
    · refine ⟨s.undefFlags, ?_, State.undefFlags_undef (Nat.le_refl _), s.undefFlags_unchanged.mono (by simp),
        nofun, fun _ => ⟨fun h => absurd h hr, fun _ => by simp⟩⟩
      simp only [pickFloat, hd, hp, hn, bind_ok, hr, if_false, Bool.false_eq_true]; rfl

/-- MIN and MAX of two float registers (41_arith_logic.md R209, R210). -/
theorem binaryFloat_completes (f : Word → Word → Word) {fa fb : FloatIx} {s : State} {x y : Word}
    (hx : readFloatReg fa s = .ok x) (hy : readFloatReg fb s = .ok y) :
    ∃ t, binaryFloat f fa fb s = .ok t ∧ FloatWritten fa (f x y) s t ∧ FlagsUndef s t ∧ Unchanged [.banks, .flag] s t :=
  ⟨(s.setFloat fa (f x y)).undefFlags, by simp [binaryFloat, hx, hy],
    (s.setFloat_written fa (f x y)).congr (by simp) (by simp) (by simp), State.undefFlags_undef (by simp),
    ((s.setFloat_unchanged fa _).mono (by simp)).trans ((State.undefFlags_unchanged _).mono (by simp))⟩

end Sys2Proof.Machine
end

