-- ==== Sys2Proof/Laws/Bulk.lean ====
section
/-! SUPPORT. Block copy, search and register ranges (45_bulk_memory.md R351 to R356): what each loop computes. -/

namespace Sys2Proof.Machine

/-! ## Copy -/

/-- Bytes outside the destination block are as they were. -/
theorem get_copyForward_outside (m : List Host.Cell) (src dst n q : Nat) (h : q < dst ∨ dst + n ≤ q) :
    Store.get (copyForward m src dst n) q = Store.get m q := by
  induction n generalizing m src dst with
  | zero => rfl
  | succ n ih =>
    simp only [copyForward]
    split
    · exact ih _ _ _ (by omega)
    · rw [ih _ _ _ (by omega), Store.get_put_ne _ _ (by omega)]

/-- The forward copy in closed form (R351): where the destination lies inside the source block, the bytes between repeat. -/
theorem get_copyForward (m : List Host.Cell) (src dst n : Nat) (hd : ∀ k < n, (Store.get m (src + k)).isSome) (k : Nat)
    (hk : k < n) :
    Store.get (copyForward m src dst n) (dst + k) = Store.get m (if src < dst then src + k % (dst - src) else src + k) := by
  induction n generalizing m src dst k with
  | zero => omega
  | succ n ih =>
    obtain ⟨b, hb⟩ := Option.isSome_iff_exists.mp (hd 0 (by omega))
    rw [Nat.add_zero] at hb
    simp only [copyForward, hb]
    cases k with
    | zero =>
      rw [get_copyForward_outside _ _ _ _ _ (by omega), Nat.add_zero, Store.get_put_self]
      simp [hb]
    | succ k =>
      have hd' : ∀ j < n, (Store.get (Store.put m dst b) (src + 1 + j)).isSome := by
        intro j hj
        rw [Store.get_put]
        split
        · rfl
        · have := hd (j + 1) (by omega)
          rwa [show src + 1 + j = src + (j + 1) by omega]
      rw [show dst + (k + 1) = dst + 1 + k by omega, ih _ _ _ hd' k (by omega), Store.get_put]
      simp only [Nat.add_lt_add_iff_right, Nat.add_sub_add_right]
      by_cases hlt : src < dst
      · simp only [if_pos hlt]
        have hD : 0 < dst - src := by omega
        have hm := Nat.mod_lt k hD
        by_cases he : k % (dst - src) = dst - src - 1
        · have h0 : (k + 1) % (dst - src) = 0 := by
            rw [Nat.add_mod, he]
            by_cases h1 : dst - src = 1
            · simp [h1]
            · rw [Nat.mod_eq_of_lt (show 1 < dst - src by omega), show dst - src - 1 + 1 = dst - src by omega, Nat.mod_self]
          rw [if_pos (by omega), h0, Nat.add_zero, hb]
        · have h1 : (k + 1) % (dst - src) = k % (dst - src) + 1 := by
            rw [Nat.add_mod]
            have : 1 < dst - src := by omega
            rw [Nat.mod_eq_of_lt this, Nat.mod_eq_of_lt (by omega)]
          rw [if_neg (by omega), h1]
          congr 1
          omega
      · simp only [if_neg hlt]
        rw [if_neg (by omega)]
        congr 1
        omega

theorem copyForward_wf {bound : Nat} {m : List Host.Cell} {src dst n : Nat} (h : Store.Wf bound m)
    (hb : n = 0 ∨ dst + n ≤ bound) : Store.Wf bound (copyForward m src dst n) := by
  induction n generalizing m src dst with
  | zero => exact h
  | succ n ih =>
    simp only [copyForward]
    split
    · exact ih h (by omega)
    · exact ih (Store.put_wf _ h (by omega)) (by omega)

theorem copyBlock_wf {bound : Nat} {o : MemcOverlap} {m : List Host.Cell} {src dst : Nat} {bs : List Byte}
    (h : Store.Wf bound m) (hb : bs.length = 0 ∨ dst + bs.length ≤ bound) : Store.Wf bound (copyBlock o m src dst bs) := by
  cases o with
  | forwardBytewise => exact copyForward_wf h hb
  | memmove => exact putBytes_wf h (hb.imp (fun e => List.length_eq_zero_iff.mp e) id)

/-- The copy in both overlap settings (R351). -/
theorem get_copyBlock (o : MemcOverlap) (m : List Host.Cell) (src dst : Nat) (bs : List Byte)
    (hb : ∀ k (h : k < bs.length), Store.get m (src + k) = some bs[k]) (q : Nat) :
    Store.get (copyBlock o m src dst bs) q =
      if dst ≤ q ∧ q < dst + bs.length then
        (if o = .forwardBytewise ∧ src < dst then Store.get m (src + (q - dst) % (dst - src)) else Store.get m (src + (q - dst)))
      else Store.get m q := by
  cases o with
  | forwardBytewise =>
    simp only [copyBlock, true_and]
    by_cases h : dst ≤ q ∧ q < dst + bs.length
    · rw [if_pos h]
      have hd : ∀ k < bs.length, (Store.get m (src + k)).isSome := fun k hk => by rw [hb k hk]; rfl
      have := get_copyForward m src dst bs.length hd (q - dst) (by omega)
      rw [Nat.add_sub_cancel' h.1] at this
      rw [this]
      split <;> rfl
    · rw [if_neg h, get_copyForward_outside _ _ _ _ _ (by omega)]
  | memmove =>
    simp only [copyBlock, reduceCtorEq, false_and, if_false]
    rw [get_putBytes]
    by_cases h : dst ≤ q ∧ q < dst + bs.length
    · rw [dif_pos h, if_pos h, hb _ (by omega)]
    · rw [dif_neg h, if_neg h]

/-! ## Search -/

/-- A byte found after `n` defined bytes that differ from it (R353). -/
theorem findByte_found {m : List Host.Cell} {b : Byte} {fuel a n : Nat}
    (hs : ∀ k < n, ∃ c, Store.get m (a + k) = some c ∧ c ≠ b) (hb : Store.get m (a + n) = some b) (hf : n < fuel) :
    findByte m b fuel a = .ok (some (a + n)) := by
  induction n generalizing fuel a with
  | zero =>
    obtain ⟨fuel, rfl⟩ : ∃ f, fuel = f + 1 := ⟨fuel - 1, by omega⟩
    rw [Nat.add_zero] at hb
    simp [findByte, hb]
  | succ n ih =>
    obtain ⟨fuel, rfl⟩ : ∃ f, fuel = f + 1 := ⟨fuel - 1, by omega⟩
    obtain ⟨c, hc, hne⟩ := hs 0 (by omega)
    rw [Nat.add_zero] at hc
    simp only [findByte, hc, if_neg hne]
    rw [ih (a := a + 1) (fuel := fuel) ?_ ?_ (by omega)]
    · congr 2; omega
    · intro k hk
      rw [show a + 1 + k = a + (k + 1) by omega]
      exact hs (k + 1) (by omega)
    · rwa [show a + 1 + n = a + (n + 1) by omega]

/-- No byte found among defined bytes that all differ (R353). -/
theorem findByte_none {m : List Host.Cell} {b : Byte} {fuel a : Nat}
    (hs : ∀ k < fuel, ∃ c, Store.get m (a + k) = some c ∧ c ≠ b) : findByte m b fuel a = .ok none := by
  induction fuel generalizing a with
  | zero => rfl
  | succ fuel ih =>
    obtain ⟨c, hc, hne⟩ := hs 0 (by omega)
    rw [Nat.add_zero] at hc
    simp only [findByte, hc, if_neg hne]
    apply ih
    intro k hk
    rw [show a + 1 + k = a + (k + 1) by omega]
    exact hs (k + 1) (by omega)

/-- An undefined byte met before the one looked for (R353). -/
theorem findByte_undefined {m : List Host.Cell} {b : Byte} {fuel a n : Nat}
    (hs : ∀ k < n, ∃ c, Store.get m (a + k) = some c ∧ c ≠ b) (hb : Store.get m (a + n) = none) (hf : n < fuel) :
    findByte m b fuel a = .error .readUndefined := by
  induction n generalizing fuel a with
  | zero =>
    obtain ⟨fuel, rfl⟩ : ∃ f, fuel = f + 1 := ⟨fuel - 1, by omega⟩
    rw [Nat.add_zero] at hb
    simp [findByte, hb]
  | succ n ih =>
    obtain ⟨fuel, rfl⟩ : ∃ f, fuel = f + 1 := ⟨fuel - 1, by omega⟩
    obtain ⟨c, hc, hne⟩ := hs 0 (by omega)
    rw [Nat.add_zero] at hc
    simp only [findByte, hc, if_neg hne]
    apply ih _ _ (by omega)
    · intro k hk
      rw [show a + 1 + k = a + (k + 1) by omega]
      exact hs (k + 1) (by omega)
    · rwa [show a + 1 + n = a + (n + 1) by omega]

/-- A pattern of nonzero bytes that a zero byte ends (R354). -/
theorem readPattern_ok {m : List Host.Cell} {pat : List Byte} {fuel p : Nat} (hnz : ∀ c ∈ pat, c ≠ 0)
    (hb : ∀ k (h : k < (pat ++ [0]).length), Store.get m (p + k) = some ((pat ++ [(0 : Byte)])[k])) (hf : pat.length < fuel) :
    readPattern m fuel p = .ok pat := by
  induction pat generalizing fuel p with
  | nil =>
    obtain ⟨fuel, rfl⟩ : ∃ f, fuel = f + 1 := ⟨fuel - 1, by omega⟩
    have := hb 0 (by simp)
    simp only [Nat.add_zero, List.nil_append, List.getElem_cons_zero] at this
    simp [readPattern, this]
  | cons c pat ih =>
    obtain ⟨fuel, rfl⟩ : ∃ f, fuel = f + 1 := ⟨fuel - 1, by omega⟩
    have h0 := hb 0 (by simp)
    simp only [Nat.add_zero, List.cons_append, List.getElem_cons_zero] at h0
    simp only [List.length_cons] at hf
    simp only [readPattern, h0, if_neg (hnz c (by simp))]
    rw [ih (p := p + 1) (fuel := fuel) (fun d hd => hnz d (by simp [hd])) ?_ (by omega)]
    · rfl
    · intro k hk
      have := hb (k + 1) (by simp at hk ⊢; omega)
      rw [show p + 1 + k = p + (k + 1) by omega]
      simpa using this

/-- A pattern that no zero byte ends (R354). -/
theorem readPattern_unterminated {m : List Host.Cell} {fuel p : Nat}
    (h : ∀ k < fuel, ∃ c, Store.get m (p + k) = some c ∧ c ≠ 0) : readPattern m fuel p = .error .memOutOfRange := by
  induction fuel generalizing p with
  | zero => rfl
  | succ fuel ih =>
    obtain ⟨c, hc, hne⟩ := h 0 (by omega)
    rw [Nat.add_zero] at hc
    simp only [readPattern, hc, if_neg hne]
    rw [ih]
    · rfl
    · intro k hk
      rw [show p + 1 + k = p + (k + 1) by omega]
      exact h (k + 1) (by omega)

/-- An undefined byte met before the zero byte that would end the pattern (R354). -/
theorem readPattern_undefined {m : List Host.Cell} {fuel p n : Nat} (hs : ∀ k < n, ∃ c, Store.get m (p + k) = some c ∧ c ≠ 0)
    (hu : Store.get m (p + n) = none) (hf : n < fuel) : readPattern m fuel p = .error .readUndefined := by
  induction n generalizing fuel p with
  | zero =>
    obtain ⟨fuel, rfl⟩ : ∃ f, fuel = f + 1 := ⟨fuel - 1, by omega⟩
    rw [Nat.add_zero] at hu
    simp [readPattern, hu]
  | succ n ih =>
    obtain ⟨fuel, rfl⟩ : ∃ f, fuel = f + 1 := ⟨fuel - 1, by omega⟩
    obtain ⟨c, hc, hne⟩ := hs 0 (by omega)
    rw [Nat.add_zero] at hc
    simp only [readPattern, hc, if_neg hne]
    rw [ih (p := p + 1) (fuel := fuel)
      (fun k hk => by rw [show p + 1 + k = p + (k + 1) by omega]; exact hs (k + 1) (by omega))
      (by rwa [show p + 1 + n = p + (n + 1) by omega]) (by omega)]
    rfl

theorem matchesAt_true {m : List Host.Cell} {a : Nat} {pat : List Byte}
    (h : ∀ k (hk : k < pat.length), Store.get m (a + k) = some pat[k]) : matchesAt m a pat = .ok true := by
  induction pat generalizing a with
  | nil => rfl
  | cons c pat ih =>
    have h0 := h 0 (by simp)
    simp only [Nat.add_zero, List.getElem_cons_zero] at h0
    simp only [matchesAt, h0, if_true]
    apply ih
    intro k hk
    have := h (k + 1) (by simpa using hk)
    rw [show a + 1 + k = a + (k + 1) by omega]
    simpa using this

theorem matchesAt_false {m : List Host.Cell} {a j : Nat} {pat : List Byte} {c : Byte} (hj : j < pat.length)
    (h : ∀ k (_ : k < j), Store.get m (a + k) = some (pat[k]'(by omega))) (hc : Store.get m (a + j) = some c)
    (hne : c ≠ pat[j]) : matchesAt m a pat = .ok false := by
  induction pat generalizing a j with
  | nil => simp at hj
  | cons d pat ih =>
    cases j with
    | zero =>
      simp only [Nat.add_zero] at hc
      simp only [List.getElem_cons_zero] at hne
      simp [matchesAt, hc, hne]
    | succ j =>
      have h0 := h 0 (by omega)
      simp only [Nat.add_zero, List.getElem_cons_zero] at h0
      simp only [matchesAt, h0, if_true]
      apply ih (j := j) (by simpa using hj)
      · intro k hk
        have := h (k + 1) (by omega)
        rw [show a + 1 + k = a + (k + 1) by omega]
        simpa using this
      · rwa [show a + 1 + j = a + (j + 1) by omega]
      · simpa using hne

/-- An undefined byte met before the first difference (R354). -/
theorem matchesAt_undefined {m : List Host.Cell} {a j : Nat} {pat : List Byte} (hj : j < pat.length)
    (h : ∀ k (_ : k < j), Store.get m (a + k) = some (pat[k]'(by omega))) (hu : Store.get m (a + j) = none) :
    matchesAt m a pat = .error .readUndefined := by
  induction pat generalizing a j with
  | nil => simp at hj
  | cons d pat ih =>
    cases j with
    | zero =>
      simp only [Nat.add_zero] at hu
      simp [matchesAt, hu]
    | succ j =>
      have h0 := h 0 (by omega)
      simp only [Nat.add_zero, List.getElem_cons_zero] at h0
      simp only [matchesAt, h0, if_true]
      apply ih (j := j) (by simpa using hj)
      · intro k hk
        have := h (k + 1) (by omega)
        rw [show a + 1 + k = a + (k + 1) by omega]
        simpa using this
      · rwa [show a + 1 + j = a + (j + 1) by omega]

/-- A comparison that faults, after addresses at which the pattern does not stand (R354). -/
theorem findPattern_error {m : List Host.Cell} {pat : List Byte} {fuel a n : Nat} {e : Fault}
    (hs : ∀ k < n, matchesAt m (a + k) pat = .ok false) (hb : matchesAt m (a + n) pat = .error e) (hf : n < fuel) :
    findPattern m pat fuel a = .error e := by
  induction n generalizing fuel a with
  | zero =>
    obtain ⟨fuel, rfl⟩ : ∃ f, fuel = f + 1 := ⟨fuel - 1, by omega⟩
    rw [Nat.add_zero] at hb
    simp only [findPattern, hb]; rfl
  | succ n ih =>
    obtain ⟨fuel, rfl⟩ : ∃ f, fuel = f + 1 := ⟨fuel - 1, by omega⟩
    have h0 := hs 0 (by omega)
    rw [Nat.add_zero] at h0
    have hi := ih (a := a + 1) (fuel := fuel)
      (fun k hk => by rw [show a + 1 + k = a + (k + 1) by omega]; exact hs (k + 1) (by omega))
      (by rwa [show a + 1 + n = a + (n + 1) by omega]) (by omega)
    rw [← hi]
    simp only [findPattern, h0]; rfl

theorem findPattern_found {m : List Host.Cell} {pat : List Byte} {fuel a n : Nat}
    (hs : ∀ k < n, matchesAt m (a + k) pat = .ok false) (hb : matchesAt m (a + n) pat = .ok true) (hf : n < fuel) :
    findPattern m pat fuel a = .ok (some (a + n)) := by
  induction n generalizing fuel a with
  | zero =>
    obtain ⟨fuel, rfl⟩ : ∃ f, fuel = f + 1 := ⟨fuel - 1, by omega⟩
    rw [Nat.add_zero] at hb
    simp only [findPattern, hb]; rfl
  | succ n ih =>
    obtain ⟨fuel, rfl⟩ : ∃ f, fuel = f + 1 := ⟨fuel - 1, by omega⟩
    have h0 := hs 0 (by omega)
    rw [Nat.add_zero] at h0
    have hi := ih (a := a + 1) (fuel := fuel) (fun k hk => by rw [show a + 1 + k = a + (k + 1) by omega]; exact hs (k + 1) (by omega))
      (by rwa [show a + 1 + n = a + (n + 1) by omega]) (by omega)
    rw [show a + (n + 1) = a + 1 + n by omega, ← hi]
    simp only [findPattern, h0]; rfl

theorem findPattern_none {m : List Host.Cell} {pat : List Byte} {fuel a : Nat}
    (hs : ∀ k < fuel, matchesAt m (a + k) pat = .ok false) : findPattern m pat fuel a = .ok none := by
  induction fuel generalizing a with
  | zero => rfl
  | succ fuel ih =>
    have h0 := hs 0 (by omega)
    rw [Nat.add_zero] at h0
    have hi := ih (a := a + 1) (fun k hk => by rw [show a + 1 + k = a + (k + 1) by omega]; exact hs (k + 1) (by omega))
    rw [← hi]
    simp only [findPattern, h0]; rfl

/-! ## Register ranges -/

/-- The registers of a range that can all be read (R356). -/
theorem storedRegs_ok {s : State} {i n : Nat} {bs : List Byte} (hl : bs.length = n)
    (h : ∀ k (hk : k < bs.length), readReg .w8 (BitVec.ofNat 5 (i + k)) s = .ok bs[k]) : storedRegs s i n = .ok bs := by
  induction bs generalizing i n with
  | nil => subst hl; rfl
  | cons b bs ih =>
    subst hl
    have h0 := h 0 (by simp)
    rw [Nat.add_zero, List.getElem_cons_zero] at h0
    have hs : storedRegs s (i + 1) bs.length = .ok bs := ih rfl fun k hk => by
      have := h (k + 1) (by simpa using hk)
      rw [show i + 1 + k = i + (k + 1) by omega]
      simpa using this
    simp [storedRegs, h0, hs]

/-- The first register of a range that cannot be read ends the read with its fault (R356). -/
theorem storedRegs_error {s : State} {i n k : Nat} {e : Fault} (hk : k < n)
    (h : ∀ j < k, ∃ b, readReg .w8 (BitVec.ofNat 5 (i + j)) s = .ok b)
    (he : readReg .w8 (BitVec.ofNat 5 (i + k)) s = .error e) : storedRegs s i n = .error e := by
  induction n generalizing i k with
  | zero => omega
  | succ n ih =>
    cases k with
    | zero =>
      rw [Nat.add_zero] at he
      simp [storedRegs, he]
    | succ k =>
      obtain ⟨b, h0⟩ := h 0 (by omega)
      rw [Nat.add_zero] at h0
      have := ih (i := i + 1) (k := k) (by omega)
        (fun j hj => by rw [show i + 1 + j = i + (j + 1) by omega]; exact h (j + 1) (by omega))
        (by rwa [show i + 1 + k = i + (k + 1) by omega])
      simp [storedRegs, h0, this]

theorem storedRegs_length {s : State} {i n : Nat} {bs : List Byte} (h : storedRegs s i n = .ok bs) : bs.length = n := by
  induction n generalizing i bs with
  | zero => obtain rfl := Except.ok.inj h; rfl
  | succ n ih =>
    obtain ⟨b, -, h⟩ := bind_eq_ok h
    obtain ⟨cs, hc, h⟩ := bind_eq_ok h
    obtain rfl := Except.ok.inj h
    simp [ih hc]

theorem loadRegs_unchanged (i : Nat) (bs : List Byte) (s : State) : Unchanged [.banks] s (loadRegs i bs s) := by
  induction bs generalizing i s with
  | nil => exact Unchanged.refl _ s
  | cons b bs ih => exact (s.setView_unchanged .w8 _ b).trans (ih _ _)

theorem loadRegs_draws_le (i : Nat) (bs : List Byte) (s : State) : s.draws ≤ (loadRegs i bs s).draws := by
  induction bs generalizing i s with
  | nil => exact Nat.le_refl _
  | cons b bs ih => exact Nat.le_trans (s.setView_draws_le .w8 _ b) (ih _ _)

theorem OtherBanksSame.trans {s t u : State} (h : OtherBanksSame s t) (h' : OtherBanksSame t u) (hb : t.bank = s.bank) :
    OtherBanksSame s u :=
  ⟨h'.1.trans h.1, fun k hk => (h'.2 k (by rwa [hb])).trans (h.2 k hk)⟩

theorem regNumber_toNat {i : Nat} {s : State} (h : i < s.params.numIntRegs) : (BitVec.ofNat 5 i).toNat = i := by
  rw [BitVec.toNat_ofNat, Nat.mod_eq_of_lt (by omega)]

theorem hasReg_number {i : Nat} {s : State} (h : i < s.params.numIntRegs) : s.HasReg (BitVec.ofNat 5 i) := by
  unfold State.HasReg
  rwa [regNumber_toNat h]

/-- Two 8-bit views of different registers share no storage. -/
theorem apart_bytes {i j : Nat} {s : State} (hi : i < s.params.numIntRegs) (hj : j < s.params.numIntRegs) (h : i ≠ j) :
    Apart s.params .w8 (BitVec.ofNat 5 i) .w8 (BitVec.ofNat 5 j) := by
  unfold Apart
  split
  · intro k hk l hl
    have hk0 : k = 0 := Nat.lt_one_iff.mp hk
    have hl0 : l = 0 := Nat.lt_one_iff.mp hl
    subst hk0 hl0
    rwa [regNumber_toNat hi, regNumber_toNat hj, Nat.add_zero, Nat.add_zero, Nat.mod_eq_of_lt hi, Nat.mod_eq_of_lt hj]
  · exact fun e => h (by rw [← regNumber_toNat hi, ← regNumber_toNat hj, e])

theorem loadRegs_frame (i : Nat) (bs : List Byte) (s : State) (hi : i + bs.length ≤ s.params.numIntRegs) :
    (∀ w j, (∀ k < bs.length, Apart s.params .w8 (BitVec.ofNat 5 (i + k)) w j) →
      (loadRegs i bs s).view w j = s.view w j ∧ (loadRegs i bs s).viewUndef w j = s.viewUndef w j) ∧
      (∀ j, (loadRegs i bs s).float j = s.float j ∧ (loadRegs i bs s).floatUndef j = s.floatUndef j) ∧
      OtherBanksSame s (loadRegs i bs s) := by
  induction bs generalizing i s with
  | nil => exact ⟨fun _ _ _ => ⟨rfl, rfl⟩, fun _ => ⟨rfl, rfl⟩, OtherBanksSame.refl s⟩
  | cons b bs ih =>
    simp only [List.length_cons] at hi
    have h := State.setView_written (hasReg_number (show i < s.params.numIntRegs by omega)) .w8 b
    obtain ⟨g1, g2, g3⟩ := ih (i + 1) (s.setView .w8 (BitVec.ofNat 5 i) b) (by simp only [State.setView_params]; omega)
    refine ⟨fun w j hap => ?_, fun j => ?_, h.others.trans g3 (by simp)⟩
    · have h' := h.apart w j (by simpa using hap 0 (by simp))
      have g := g1 w j fun k hk => by
        simp only [State.setView_params]
        have := hap (k + 1) (by simpa using hk)
        rwa [show i + 1 + k = i + (k + 1) by omega]
      exact ⟨g.1.trans h'.1, g.2.trans h'.2⟩
    · exact ⟨(g2 j).1.trans (h.floats j).1, (g2 j).2.trans (h.floats j).2⟩

/-- Bytes loaded into a register range are read back (R355). -/
theorem loadRegs_view (i : Nat) (bs : List Byte) (s : State) (hi : i + bs.length ≤ s.params.numIntRegs)
    (hb : s.bank < s.banks.length) (k : Nat) (hk : k < bs.length) :
    (loadRegs i bs s).view .w8 (BitVec.ofNat 5 (i + k)) = bs[k] ∧
      (loadRegs i bs s).viewUndef .w8 (BitVec.ofNat 5 (i + k)) = false := by
  induction bs generalizing i s k with
  | nil => simp at hk
  | cons b bs ih =>
    simp only [List.length_cons] at hi hk
    have hw := State.setView_written (hasReg_number (show i < s.params.numIntRegs by omega)) .w8 b
    cases k with
    | zero =>
      have := (loadRegs_frame (i + 1) bs (s.setView .w8 (BitVec.ofNat 5 i) b)
        (by simp only [State.setView_params]; omega)).1 .w8 (BitVec.ofNat 5 i) fun k hk' =>
          apart_bytes (by simp only [State.setView_params]; omega) (by simp only [State.setView_params]; omega) (by omega)
      exact ⟨this.1.trans (hw.value ⟨hb, fun _ => by show 1 ≤ _; omega⟩), this.2.trans (hw.defined hb rfl)⟩
    | succ k =>
      rw [loadRegs, show i + (k + 1) = i + 1 + k by omega]
      have := ih (i + 1) (s.setView .w8 (BitVec.ofNat 5 i) b) (by simp only [State.setView_params]; omega)
        (by rw [hw.others.1]; simpa using hb) k (by omega)
      simpa using this

end Sys2Proof.Machine
end

