-- ==== Sys2Proof/Laws/Float.lean ====
section
/-! SUPPORT. Binary32 patterns: fields, magnitudes, exact values and exact roots (44_float.md R321 to R324). -/

namespace Sys2Proof.Machine

/-! ## Fields -/

theorem floatExp_eq (x : Word) : floatExp x = x.toNat / 2 ^ 23 % 2 ^ 8 := by
  simp only [floatExp, BitVec.extractLsb'_toNat, Nat.shiftRight_eq_div_pow]

theorem floatFrac_eq (x : Word) : floatFrac x = x.toNat % 2 ^ 23 := by
  simp [floatFrac, BitVec.extractLsb'_toNat]

theorem msb_eq (x : Word) : x.msb = decide (2 ^ 31 ≤ x.toNat) := BitVec.msb_eq_decide x

theorem floatExp_lt (x : Word) : floatExp x < 256 := by rw [floatExp_eq]; omega

theorem floatFrac_lt (x : Word) : floatFrac x < 2 ^ 23 := by rw [floatFrac_eq]; omega

/-- A pattern is its three fields. -/
theorem floatPack_fields (x : Word) : floatPack x.msb (floatExp x) (floatFrac x) = x := by
  apply BitVec.eq_of_toNat_eq
  have hx := x.isLt
  have he := floatExp_eq x
  have hf := floatFrac_eq x
  rw [floatPack, BitVec.toNat_ofNat, msb_eq]
  by_cases h : 2 ^ 31 ≤ x.toNat
  · rw [decide_eq_true h, if_pos rfl, Nat.mod_eq_of_lt] <;> omega
  · rw [decide_eq_false h, if_neg (by simp), Nat.mod_eq_of_lt] <;> omega

theorem floatPack_toNat {e f : Nat} (neg : Bool) (he : e < 256) (hf : f < 2 ^ 23) :
    (floatPack neg e f).toNat = (if neg then 2 ^ 31 else 0) + e * 2 ^ 23 + f := by
  rw [floatPack, BitVec.toNat_ofNat, Nat.mod_eq_of_lt]
  cases neg
  · simp only [Bool.false_eq_true, if_false]; omega
  · simp only [if_true]; omega

theorem floatExp_floatPack {e f : Nat} (neg : Bool) (he : e < 256) (hf : f < 2 ^ 23) : floatExp (floatPack neg e f) = e := by
  rw [floatExp_eq, floatPack_toNat neg he hf]
  cases neg
  · simp only [Bool.false_eq_true, if_false]; omega
  · simp only [if_true]; omega

theorem floatFrac_floatPack {e f : Nat} (neg : Bool) (he : e < 256) (hf : f < 2 ^ 23) : floatFrac (floatPack neg e f) = f := by
  rw [floatFrac_eq, floatPack_toNat neg he hf]
  cases neg
  · simp only [Bool.false_eq_true, if_false]; omega
  · simp only [if_true]; omega

theorem msb_floatPack {e f : Nat} (neg : Bool) (he : e < 256) (hf : f < 2 ^ 23) : (floatPack neg e f).msb = neg := by
  rw [msb_eq, floatPack_toNat neg he hf]
  cases neg
  · simp only [Bool.false_eq_true, if_false, decide_eq_false_iff_not]; omega
  · simp only [if_true, decide_eq_true_eq]; omega

/-! ## Magnitudes -/

theorem floatMag_floatPack {e f : Nat} (neg : Bool) (he : e < 256) (hf : f < 2 ^ 23) :
    floatMag (floatPack neg e f) = if e = 0 then f else (2 ^ 23 + f) * 2 ^ (e - 1) := by
  rw [floatMag, floatExp_floatPack neg he hf, floatFrac_floatPack neg he hf]

@[simp] theorem floatMag_zeroLike (x : Word) : floatMag (zeroLike x) = 0 := by
  rw [zeroLike, floatMag_floatPack _ (by omega) (by omega), if_pos rfl]

@[simp] theorem isFinite_zeroLike (x : Word) : isFinite (zeroLike x) = true := by
  simp [isFinite, zeroLike, floatExp_floatPack]

theorem floatInt_eq (x : Word) : floatInt x = if x.msb then -(floatMag x : Int) else floatMag x := rfl

theorem floatInt_eq_zero {x : Word} : floatInt x = 0 ↔ floatMag x = 0 := by
  rw [floatInt_eq]; split <;> omega

theorem floatInt_natAbs (x : Word) : (floatInt x).natAbs = floatMag x := by
  rw [floatInt_eq]; split <;> omega

/-- What `ofMag` answers is a finite pattern of that sign and magnitude. -/
theorem ofMag_spec {neg : Bool} {m : Nat} {p : Word} (h : ofMag neg m = some p) :
    isFinite p = true ∧ floatMag p = m ∧ p.msb = neg := by
  unfold ofMag at h
  split at h
  · next hm =>
    obtain rfl := Option.some.inj h
    refine ⟨?_, ?_, msb_floatPack _ (by omega) hm⟩
    · simp [isFinite, floatExp_floatPack _ (show 0 < 256 by omega) hm]
    · rw [floatMag_floatPack _ (by omega) hm, if_pos rfl]
  · next hm =>
    dsimp only at h
    split at h
    · next hk =>
      obtain ⟨hk, hk'⟩ := hk
      obtain rfl := Option.some.inj h
      have hm0 : m ≠ 0 := by intro h0; subst h0; exact hm (by decide)
      have hlog : 23 ≤ Nat.log2 m := (Nat.le_log2 hm0).mpr (by omega)
      have hlo : 2 ^ (Nat.log2 m) ≤ m := Nat.log2_self_le hm0
      have hhi : m < 2 ^ (Nat.log2 m + 1) := Nat.lt_log2_self
      generalize hkk : Nat.log2 m - 23 = k at *
      have e1 : Nat.log2 m = k + 23 := by omega
      rw [e1, Nat.pow_add] at hlo
      rw [e1, show k + 23 + 1 = k + 24 by omega, Nat.pow_add] at hhi
      have hpos : 0 < 2 ^ k := Nat.two_pow_pos k
      have hdm : m / 2 ^ k * 2 ^ k = m := Nat.div_mul_cancel (Nat.dvd_of_mod_eq_zero hk)
      have h1 : 2 ^ 23 ≤ m / 2 ^ k := (Nat.le_div_iff_mul_le hpos).mpr (by rwa [Nat.mul_comm])
      have h2 : m / 2 ^ k < 2 ^ 24 := (Nat.div_lt_iff_lt_mul hpos).mpr (by rwa [Nat.mul_comm])
      have hf : m / 2 ^ k - 2 ^ 23 < 2 ^ 23 := by omega
      refine ⟨?_, ?_, msb_floatPack _ (by omega) hf⟩
      · simp only [isFinite, floatExp_floatPack neg (show k + 1 < 256 by omega) hf, bne_iff_ne]; omega
      · rw [floatMag_floatPack _ (by omega) hf, if_neg (by omega), Nat.add_sub_cancel, Nat.add_sub_cancel' h1, hdm]
    · cases h

/-- Every finite pattern is found from its sign and magnitude. -/
theorem ofMag_floatMag {x : Word} (hx : isFinite x = true) (neg : Bool) :
    ofMag neg (floatMag x) = some (floatPack neg (floatExp x) (floatFrac x)) := by
  have hf := floatFrac_lt x
  have he : floatExp x ≠ 255 := by simpa [isFinite] using hx
  have he' := floatExp_lt x
  unfold ofMag floatMag
  by_cases h0 : floatExp x = 0
  · rw [if_pos h0, if_pos hf, h0]
  · rw [if_neg h0]
    obtain ⟨k, hk⟩ : ∃ k, floatExp x = k + 1 := ⟨floatExp x - 1, by omega⟩
    rw [hk, Nat.add_sub_cancel]
    have hpos : 0 < 2 ^ k := Nat.two_pow_pos k
    have hge : 2 ^ 23 ≤ (2 ^ 23 + floatFrac x) * 2 ^ k :=
      Nat.le_trans (Nat.le_add_right _ _) (Nat.le_mul_of_pos_right _ hpos)
    rw [if_neg (by omega)]
    have hlog : Nat.log2 ((2 ^ 23 + floatFrac x) * 2 ^ k) = k + 23 := by
      rw [Nat.log2_eq_iff (by positivity)]
      rw [show k + 23 + 1 = 24 + k by omega, show k + 23 = 23 + k by omega, Nat.pow_add, Nat.pow_add]
      exact ⟨Nat.mul_le_mul_right _ (by omega), Nat.mul_lt_mul_of_pos_right (by omega) hpos⟩
    simp only [hlog, Nat.add_sub_cancel, Nat.mul_mod_left, Nat.mul_div_cancel _ hpos, Nat.add_sub_cancel_left]
    rw [if_pos ⟨trivial, by omega⟩]

theorem ofMag_self {x : Word} (hx : isFinite x = true) : ofMag x.msb (floatMag x) = some x := by
  rw [ofMag_floatMag hx, floatPack_fields]

/-- Two finite patterns of one value other than zero are one pattern. -/
theorem eq_of_floatMag_eq {x y : Word} (hx : isFinite x = true) (hy : isFinite y = true) (hm : floatMag x = floatMag y)
    (hs : x.msb = y.msb) : x = y :=
  Option.some.inj ((ofMag_self hx).symm.trans (by rw [hm, hs, ofMag_self hy]))

theorem floatMag_lt {x : Word} (hx : isFinite x = true) : floatMag x < 2 ^ (24 + 253) := by
  have hf := floatFrac_lt x
  have he : floatExp x ≠ 255 := by simpa [isFinite] using hx
  have he' := floatExp_lt x
  unfold floatMag
  split
  · omega
  · have h1 : 2 ^ (floatExp x - 1) ≤ 2 ^ 253 := Nat.pow_le_pow_right (by omega) (by omega)
    rw [Nat.pow_add]
    exact Nat.lt_of_le_of_lt (Nat.mul_le_mul_left _ h1) (Nat.mul_lt_mul_of_pos_right (by omega) (by positivity))

/-- A value of magnitude `2^23` or more is integral. -/
theorem integral_of_large {x : Word} (h : 2 ^ 172 ≤ floatMag x) : floatMag x % floatOne = 0 := by
  have hf := floatFrac_lt x
  unfold floatMag at h ⊢
  split at h
  · omega
  · next h0 =>
    rw [if_neg h0]
    by_cases he : 149 ≤ floatExp x - 1
    · obtain ⟨c, hc⟩ := Nat.exists_eq_add_of_le he
      rw [hc, Nat.pow_add, Nat.mul_comm (2 ^ 149) (2 ^ c), ← Nat.mul_assoc]
      exact Nat.mul_mod_left _ _
    · exfalso
      have h1 : 2 ^ (floatExp x - 1) ≤ 2 ^ 148 := Nat.pow_le_pow_right (by omega) (by omega)
      have h2 : (2 ^ 23 + floatFrac x) * 2 ^ (floatExp x - 1) < 2 ^ 24 * 2 ^ 148 :=
        Nat.lt_of_le_of_lt (Nat.mul_le_mul_left _ h1) (Nat.mul_lt_mul_of_pos_right (by omega) (by positivity))
      have : (2 : Nat) ^ 24 * 2 ^ 148 = 2 ^ 172 := by norm_num
      omega

theorem log2_mul_two_pow {n : Nat} (hn : n ≠ 0) (k : Nat) : Nat.log2 (n * 2 ^ k) = Nat.log2 n + k := by
  have hpos := Nat.two_pow_pos k
  rw [Nat.log2_eq_iff (Nat.mul_ne_zero hn (by omega)), show Nat.log2 n + k + 1 = (Nat.log2 n + 1) + k by omega,
    Nat.pow_add 2 _ k, Nat.pow_add 2 _ k]
  exact ⟨Nat.mul_le_mul_right _ (Nat.log2_self_le hn), Nat.mul_lt_mul_of_pos_right Nat.lt_log2_self hpos⟩

/-- Every integer of magnitude at most `2^24` is a binary32 value. -/
theorem ofMag_small (neg : Bool) {n : Nat} (hn : n ≤ 2 ^ 24) : ∃ p, ofMag neg (n * floatOne) = some p := by
  unfold ofMag
  split
  · exact ⟨_, rfl⟩
  · next h =>
    have hn0 : n ≠ 0 := by intro h0; subst h0; exact h (by decide)
    have hlog : Nat.log2 (n * floatOne) = Nat.log2 n + 149 := by
      exact log2_mul_two_pow hn0 149
    have hn25 : n < 2 ^ 25 := Nat.lt_of_le_of_lt hn (by decide)
    have hl : Nat.log2 n < 25 := (Nat.log2_lt hn0).mpr hn25
    dsimp only
    rw [hlog, if_pos]
    · exact ⟨_, rfl⟩
    · refine ⟨?_, by omega⟩
      by_cases h24 : Nat.log2 n = 24
      · have hge := Nat.log2_self_le hn0
        rw [h24] at hge
        obtain rfl : n = 2 ^ 24 := Nat.le_antisymm hn hge
        rw [h24]
        exact Nat.mod_eq_zero_of_dvd ⟨2 ^ 23, by rw [floatOne, ← Nat.pow_add, ← Nat.pow_add]⟩
      · apply Nat.mod_eq_zero_of_dvd
        exact Dvd.dvd.mul_left (Nat.pow_dvd_pow 2 (by omega)) n

/-! ## Exact roots -/

theorem natRoot_spec {p n : Nat} (bits acc : Nat) (hlo : acc ^ p ≤ n) (hhi : n < (acc + 2 ^ bits) ^ p) :
    natRoot p n bits acc ^ p ≤ n ∧ n < (natRoot p n bits acc + 1) ^ p := by
  induction bits generalizing acc with
  | zero => exact ⟨hlo, by simpa [natRoot] using hhi⟩
  | succ b ih =>
    simp only [natRoot]
    split
    · next h => exact ih _ h (by rwa [Nat.add_assoc, ← Nat.two_mul, ← Nat.pow_succ'])
    · next h => exact ih _ hlo (by omega)

/-- The exact root of a power is found. -/
theorem exactRoot_eq {p q m : Nat} (neg : Bool) (hp : p ≠ 0) (hq : q < 2 ^ 214) (h : q ^ p = m * floatOne ^ (p - 1)) :
    exactRoot p neg m = ofMag neg q := by
  have hhi : m * floatOne ^ (p - 1) < (0 + 2 ^ 214) ^ p := by
    rw [← h, Nat.zero_add]; exact Nat.pow_lt_pow_left hq hp
  obtain ⟨h1, h2⟩ := natRoot_spec (p := p) 214 0 (by simp [Nat.zero_pow (Nat.pos_of_ne_zero hp)]) hhi
  have hk : natRoot p (m * floatOne ^ (p - 1)) 214 0 = q := by
    rw [← h] at h1 h2 ⊢
    have g1 := (Nat.pow_le_pow_iff_left hp).mp h1
    have g2 := (Nat.pow_lt_pow_iff_left hp).mp h2
    omega
  simp only [exactRoot, hk, if_pos h]

end Sys2Proof.Machine
end

