-- ==== Sys2Proof/Laws/FloatOps.lean ====
section
/-! SUPPORT. One lemma for each shared operation of the float families (44_float.md R321 to R330), and the value laws of the
numerics functions. -/

namespace Sys2Proof.Machine

/-! ## Operands -/

/-- A destination that can be read can be written. -/
theorem FloatPlace.writable_of_read {p : FloatPlace} {s : State} {x : Word} (r : Word) (h : readFloat p s = .ok x) :
    p.Writable r s := by
  cases p with
  | freg j => trivial
  | ireg w x =>
    obtain ⟨d, hd, -⟩ := bind_eq_ok h
    exact fun _ => (readReg_eq_ok hd).1
  | mem m =>
    obtain ⟨a, ha, hr⟩ := bind_eq_ok h
    exact ⟨a, ha, (readMem_eq_ok hr).1⟩

theorem truncToWidth_eq_some {w : Width} {r : Word} {n : Nat} (h : FitsUnsigned w r n) :
    truncToWidth w r = some (BitVec.ofNat w.bits n) := by
  obtain ⟨h1, rfl, h3, h4⟩ := h
  exact if_pos ⟨h1, h4, h3⟩

theorem truncToWidth_eq_none {w : Width} {r : Word} (h : ¬ ∃ n, FitsUnsigned w r n) : truncToWidth w r = none :=
  if_neg fun hc => h ⟨_, hc.1, rfl, hc.2.2, hc.2.1⟩

theorem FitsUnsigned.eq {w : Width} {r : Word} {m n : Nat} (h : FitsUnsigned w r m) (h' : FitsUnsigned w r n) : m = n :=
  h.2.1.trans h'.2.1.symm

/-- What writing a float result does (44_float.md R321, R323). -/
theorem writeFloat_completes {p : FloatPlace} {s : State} (r : Word) (h : p.Writable r s) :
    ∃ t, writeFloat p r s = .ok t ∧ p.Wrote r s t ∧ Unchanged [.banks, .mem, .flag] s t := by
  cases p with
  | freg j =>
    refine ⟨(s.setFloat j r).undefFlags, rfl, ⟨?_, by simp, ?_⟩, ?_⟩
    · exact (s.setFloat_written j r).congr (by simp) (by simp) (by simp)
    · exact State.undefFlags_undef (by simp)
    · exact ((s.setFloat_unchanged j r).mono (by simp)).trans ((State.undefFlags_unchanged _).mono (by simp))
  | ireg w x =>
    by_cases hf : ∃ n, FitsUnsigned w r n
    · have hx := h hf
      obtain ⟨n, hn⟩ := hf
      refine ⟨(s.setView w x (BitVec.ofNat w.bits n)).rangeFlags false, ?_, ⟨by simp [State.rangeFlags], fun m hm => ?_,
        fun hc => absurd ⟨n, hn⟩ hc⟩, ?_⟩
      · simp only [writeFloat, truncToWidth_eq_some hn, writeReg_ok hx]; rfl
      · obtain rfl := hn.eq hm
        refine ⟨(State.setView_written hx w _).congr (by simp [State.rangeFlags]) (by simp [State.rangeFlags])
          (by simp [State.rangeFlags]), ?_⟩
        have := State.undefFlagsBut_undef (s.setView_draws_le w x (BitVec.ofNat w.bits n)) s.params.ovfBit.index false
        simpa [State.rangeFlags] using this
      · exact ((s.setView_unchanged w x _).mono (by simp)).trans ((State.undefFlagsBut_unchanged _ _ _).mono (by simp))
    · refine ⟨s.rangeFlags true, ?_, ⟨by simp [State.rangeFlags], fun n hn => absurd ⟨n, hn⟩ hf, fun _ => ⟨?_, ?_⟩⟩, ?_⟩
      · simp only [writeFloat, truncToWidth_eq_none hf]
      · simp [State.rangeFlags]
      · exact State.undefFlagsBut_undef (Nat.le_refl _) _ _
      · exact (State.undefFlagsBut_unchanged _ _ _).mono (by simp)
  | mem m =>
    obtain ⟨a, ha, hr⟩ := h
    refine ⟨State.undefFlags { s with mem := putBytes s.mem a.toNat (natToBe 4 r.toNat) }, ?_, ⟨fun a' ha' => ?_, rfl, ?_⟩, ?_⟩
    · simp only [writeFloat, ha, bind_ok, writeMem_ok (w := .w32) r hr]; rfl
    · obtain rfl : a = a' := Except.ok.inj (ha.symm.trans ha')
      exact (putBytes_written .w32 a.toNat r s).congr rfl
    · exact State.undefFlags_undef (Nat.le_refl _)
    · exact ((s.setMem_unchanged _).mono (by simp)).trans ((State.undefFlags_unchanged _).mono (by simp))

/-- The unary float operation (44_float.md R325). -/
theorem floatUnary_completes (f : Word → Word) {dst src : FloatPlace} {s : State} {x : Word} (hx : readFloat src s = .ok x)
    (hd : dst.Writable (f x) s) :
    ∃ t, floatUnary f dst src s = .next t ∧ dst.Wrote (f x) s t ∧ Unchanged [.banks, .mem, .flag] s t := by
  obtain ⟨t, h1, h2, h3⟩ := writeFloat_completes (f x) hd
  exact ⟨t, by simp [floatUnary, hx, h1], h2, h3⟩

/-- POW (44_float.md R327). -/
theorem powOp_completes {dst src : FloatPlace} {s : State} {y x : Word} (hy : readFloat dst s = .ok y)
    (hx : readFloat src s = .ok x) :
    ∃ t, powOp dst src s = .next t ∧ dst.Wrote (fpow y x) s t ∧ Unchanged [.banks, .mem, .flag] s t := by
  obtain ⟨t, h1, h2, h3⟩ := writeFloat_completes (fpow y x) (FloatPlace.writable_of_read _ hy)
  exact ⟨t, by simp [powOp, hx, hy, h1], h2, h3⟩

/-! ## Values -/

/-- A finite value is a signed magnitude. -/
theorem floatInt_of_sign {x : Word} (h : x.msb = true) : floatInt x = -(floatMag x : Int) := by simp [floatInt, h]

theorem floatInt_of_nonneg {x : Word} (h : x.msb = false) : floatInt x = (floatMag x : Int) := by simp [floatInt, h]

/-- A small multiple of one: the pattern found is finite and has that value. -/
theorem ofMag_small_getD {neg : Bool} {n : Nat} (hn : n ≤ 2 ^ 24) (x : Word) :
    isFinite ((ofMag neg (n * floatOne)).getD x) = true ∧
      floatInt ((ofMag neg (n * floatOne)).getD x) = (if neg then -(n : Int) else n) * 2 ^ 149 := by
  obtain ⟨p, hp⟩ := ofMag_small neg hn
  obtain ⟨h1, h2, h3⟩ := ofMag_spec hp
  rw [hp, Option.getD_some]
  refine ⟨h1, ?_⟩
  rw [floatInt_eq, h2, h3]
  cases neg <;> simp

end Sys2Proof.Machine
end

