-- ==== Sys2Proof/Laws/Effects.lean ====
section
/-! SUPPORT. What each shared operation can do when it answers a next state: the pieces of state it may change, its flags, and
that it keeps the invariant. Stated by family (`Family.mayChange`, `Family.FlagRule`, `Done`); one lemma for each operation. -/

namespace Sys2Proof

/-- The pieces of state the instructions of a family may change; of INT see `Done`. -/
def Family.mayChange : Family → List Machine.Field
  | .and | .or | .xor | .nor | .min | .max | .inc | .dec | .sqr | .cbr | .pow | .sin | .floor | .round => [.banks, .mem, .flag]
  | .inv | .sl | .sr | .rl | .rr | .set | .res | .getbits | .find | .ldregs | .ex | .getvar => [.banks, .flag]
  | .rand => [.banks, .rng, .flag]
  | .bit | .scp => [.flag]
  | .setbits | .memc | .memf | .stregs => [.mem, .flag]
  | .jp | .jr => [.ipo]
  | .call | .callr => [.cs, .spc, .ipo]
  | .ret | .retif => [.spc, .ipo, .running]
  | .banksel => [.bank, .flag]
  | .wait => [.events, .flag]
  | .setvar => [.hmem, .flag]
  | .smul => [.events]
  | .vcl | .vdl => [.mem, .events, .flag]
  | .brk => [.running, .ipo]
  | .play | .int => []

/-- What the instructions of a family do to the flags (10_state.md R42, R43); of INT see `Done`. -/
def Family.FlagRule (m : Family) (s t : Machine.State) : Prop :=
  match m with
  | .jp | .jr | .call | .callr | .ret | .retif | .brk | .smul => Machine.Field.flag.Same s t
  | .scp => ∀ n : FlagIx, n ∉ [(0 : FlagIx), 2, 3, 5, 6, 7] →
    t.flagBit n = s.flagBit n ∧ t.flagBitUndef n = s.flagBitUndef n
  | .bit => Machine.FlagsUndef s t ∨ ∃ b, Machine.FlagsUndefBut s.params.bitFlag b s t
  | .sqr | .cbr | .pow | .sin | .floor | .round =>
    Machine.FlagsUndef s t ∨ ∃ b, Machine.FlagsUndefBut s.params.ovfBit.index b s t
  | _ => Machine.FlagsUndef s t

namespace Machine

/-- An instruction of a family has answered a next state. -/
structure Done (m : Family) (s t : State) : Prop where
  params : t.params = s.params
  unchanged : m ≠ .int → Unchanged m.mayChange s t
  flags : m ≠ .int → m.FlagRule s t
  inv : s.Inv → t.Inv

/-! ## Steps that keep the storage in shape -/

/-- Nothing but the listed pieces changed, the memory kept its form, the number of banks is the same. -/
structure Effect (fs : List Field) (s t : State) : Prop where
  unchanged : Unchanged fs s t
  memory : Memory.wf s.mem → Memory.wf t.mem
  banks : t.banks.length = s.banks.length
  draws : s.draws ≤ t.draws

theorem Effect.refl (fs : List Field) (s : State) : Effect fs s s := ⟨.refl fs s, id, rfl, Nat.le_refl _⟩

theorem Effect.trans {fs : List Field} {s t u : State} (h : Effect fs s t) (h' : Effect fs t u) : Effect fs s u :=
  ⟨h.unchanged.trans h'.unchanged, fun hm => h'.memory (h.memory hm), h'.banks.trans h.banks, h.draws.trans h'.draws⟩

theorem Effect.mono {fs gs : List Field} {s t : State} (h : Effect fs s t) (hs : fs ⊆ gs) : Effect gs s t :=
  ⟨h.unchanged.mono hs, h.memory, h.banks, h.draws⟩

theorem Effect.tick (s : State) : Effect [] s s.tick :=
  ⟨by apply Unchanged.of <;> simp, id, rfl, Nat.le_succ _⟩

theorem Effect.setView (s : State) (w : Width) (i : RegIx) (v : BitVec w.bits) : Effect [.banks] s (s.setView w i v) :=
  ⟨s.setView_unchanged w i v, by simp, (s.putView_otherBanks w i v false).1, s.setView_draws_le w i v⟩

theorem Effect.setViewFree (s : State) (w : Width) (i : RegIx) : Effect [.banks] s (s.setViewFree w i) :=
  ⟨s.setViewFree_unchanged w i, by simp, (s.tick.putView_otherBanks w i _ true).1, Nat.le_of_lt (s.setViewFree_draws_lt w i)⟩

theorem Effect.setFloat (s : State) (j : FloatIx) (p : Word) : Effect [.banks] s (s.setFloat j p) :=
  ⟨s.setFloat_unchanged j p, by simp, (s.setFloat_written j p).others.1, by simp⟩

theorem Effect.setMem {s : State} {m : List Host.Cell} (h : Memory.wf s.mem → Memory.wf m) :
    Effect [.mem] s { s with mem := m } :=
  ⟨s.setMem_unchanged m, h, rfl, Nat.le_refl _⟩

theorem Effect.undefFlags (s : State) : Effect [.flag] s s.undefFlags :=
  ⟨s.undefFlags_unchanged, by simp, by simp, by simp⟩

theorem Effect.undefFlagsBut (s : State) (n : FlagIx) (b : Bool) : Effect [.flag] s (s.undefFlagsBut n b) :=
  ⟨s.undefFlagsBut_unchanged n b, by simp, by simp, by simp⟩

theorem Effect.record (s : State) (e : HostEvent) : Effect [.events] s (s.record e) :=
  ⟨by apply Unchanged.of <;> simp, by simp, by simp, by simp⟩

theorem Effect.putBytes {s : State} {a : Nat} {bs : List Byte} (h : bs.length = 0 ∨ a + bs.length ≤ memSize) :
    Effect [.mem] s { s with mem := Machine.putBytes s.mem a bs } :=
  Effect.setMem fun hm => putBytes_wf hm (h.imp List.length_eq_zero_iff.mp id)

/-- Every flag UNDEF after an effect. -/
theorem Effect.thenUndef {fs : List Field} {s t : State} (h : Effect fs s t) (hf : Field.flag ∈ fs) :
    Effect fs s t.undefFlags ∧ FlagsUndef s t.undefFlags :=
  ⟨h.trans ((Effect.undefFlags t).mono (by simpa using hf)), State.undefFlags_undef h.draws⟩

/-- The pieces of state the invariant says nothing about the numbers in. -/
def plainFields : List Field := [.banks, .flag, .ipo, .running, .rng, .mem, .events]

/-- An effect on plain pieces keeps the invariant. -/
theorem Effect.inv {fs : List Field} {s t : State} (h : Effect fs s t) (hs : fs ⊆ plainFields) (hi : s.Inv) : t.Inv := by
  have hu := h.unchanged.mono hs
  have hp := hu.1
  have h1 : t.hmem = s.hmem := hu.2 .hmem (by decide)
  have h2 : t.bank = s.bank := hu.2 .bank (by decide)
  have h3 : t.cs = s.cs := hu.2 .cs (by decide)
  have h4 : t.spc = s.spc := hu.2 .spc (by decide)
  exact ⟨h.memory hi.memory, by rw [h1]; exact hi.highMemory, by rw [hp, h.banks]; exact hi.bankCount,
    by rw [h2, hp]; exact hi.bankExists, by rw [h3, hp]; exact hi.stackSize, by rw [h4, hp]; exact hi.stackDepth⟩

/-- `Done` of a family from an effect on the pieces it may change. -/
theorem Effect.done {m : Family} {s t : State} (h : Effect m.mayChange s t) (hs : m.mayChange ⊆ plainFields)
    (hf : m.FlagRule s t) : Done m s t :=
  ⟨h.unchanged.1, fun _ => h.unchanged, fun _ => hf, fun hi => h.inv hs hi⟩

/-! ## Operations over operands -/

theorem writePlace_effect {w : Width} {p : Place} {s t : State} {v : BitVec w.bits} (h : writePlace w p v s = .ok t) :
    Effect [.banks, .mem] s t := by
  rcases writePlace_eq_ok h with ⟨x, rfl, -, rfl⟩ | ⟨m, a, rfl, -, hr, rfl⟩
  · exact (Effect.setView s w x v).mono (by simp)
  · exact (Effect.putBytes (.inr (by simpa using hr))).mono (by simp)

theorem writeReg_effect {w : Width} {x : RegIx} {s t : State} {v : BitVec w.bits} (h : writeReg w x v s = .ok t) :
    Effect [.banks] s t := by
  obtain ⟨-, rfl⟩ := writeReg_eq_ok h
  exact Effect.setView s w x v

theorem binary_effect {w : Width} {f : BitVec w.bits → BitVec w.bits → BitVec w.bits} {dst : Place} {src : Source w}
    {s t : State} (h : binary w f dst src s = .ok t) : Effect [.banks, .mem, .flag] s t ∧ FlagsUndef s t := by
  obtain ⟨d, -, h⟩ := bind_eq_ok h
  obtain ⟨x, -, h⟩ := bind_eq_ok h
  obtain ⟨u, hu, h⟩ := bind_eq_ok h
  obtain rfl := Except.ok.inj h
  exact ((writePlace_effect hu).mono (by simp)).thenUndef (by simp)

theorem modify_effect {w : Width} {f : BitVec w.bits → BitVec w.bits} {dst : Place} {s t : State}
    (h : modify w f dst s = .ok t) : Effect [.banks, .mem, .flag] s t ∧ FlagsUndef s t := by
  obtain ⟨d, -, h⟩ := bind_eq_ok h
  obtain ⟨u, hu, h⟩ := bind_eq_ok h
  obtain rfl := Except.ok.inj h
  exact ((writePlace_effect hu).mono (by simp)).thenUndef (by simp)

theorem modify_reg_effect {w : Width} {f : BitVec w.bits → BitVec w.bits} {a : RegIx} {s t : State}
    (h : modify w f (.reg a) s = .ok t) : Effect [.banks, .flag] s t ∧ FlagsUndef s t := by
  obtain ⟨d, -, h⟩ := bind_eq_ok h
  obtain ⟨u, hu, h⟩ := bind_eq_ok h
  obtain rfl := Except.ok.inj h
  exact ((writeReg_effect hu).mono (by simp)).thenUndef (by simp)

theorem shiftBy_effect {w : Width} {f : BitVec w.bits → Nat → Option (BitVec w.bits)} {a : RegIx} {n : Source .w8}
    {s t : State} (h : shiftBy w f a n s = .ok t) : Effect [.banks, .flag] s t ∧ FlagsUndef s t := by
  obtain ⟨d, -, h⟩ := bind_eq_ok h
  obtain ⟨k, -, h⟩ := bind_eq_ok h
  split at h
  · obtain rfl := Except.ok.inj h
    exact ((Effect.setView s w a _).mono (by simp)).thenUndef (by simp)
  · obtain rfl := Except.ok.inj h
    exact ((Effect.setViewFree s w a).mono (by simp)).thenUndef (by simp)

theorem pickFloat_effect {w : Width} {pick : Nat → Nat → Nat} {a : RegIx} {fb : FloatIx} {s t : State}
    (h : pickFloat w pick a fb s = .ok t) : Effect [.banks, .mem, .flag] s t ∧ FlagsUndef s t := by
  obtain ⟨d, -, h⟩ := bind_eq_ok h
  obtain ⟨p, -, h⟩ := bind_eq_ok h
  dsimp only at h
  split at h
  · obtain rfl := Except.ok.inj h
    exact ((Effect.setViewFree s w a).mono (by simp)).thenUndef (by simp)
  · split at h
    · obtain rfl := Except.ok.inj h
      exact (((Effect.tick s).mono (by simp)).trans ((Effect.setView s.tick w a _).mono (by simp))).thenUndef (by simp)
    · obtain rfl := Except.ok.inj h
      exact ((Effect.refl _ s)).thenUndef (by simp)

theorem writeFloat_effect {p : FloatPlace} {r : Word} {s t : State} (h : writeFloat p r s = .ok t) :
    Effect [.banks, .mem, .flag] s t ∧ (FlagsUndef s t ∨ ∃ b, FlagsUndefBut s.params.ovfBit.index b s t) := by
  cases p with
  | freg j =>
    obtain rfl := Except.ok.inj h
    have := ((Effect.setFloat s j r).mono (gs := [.banks, .mem, .flag]) (by simp)).thenUndef (by simp)
    exact ⟨this.1, .inl this.2⟩
  | ireg w x =>
    simp only [writeFloat] at h
    split at h
    · next v _ =>
      obtain ⟨u, hu, h⟩ := bind_eq_ok h
      obtain ⟨-, rfl⟩ := writeReg_eq_ok hu
      obtain rfl := Except.ok.inj h
      refine ⟨((Effect.setView s w x _).mono (by simp)).trans ((Effect.undefFlagsBut _ _ _).mono (by simp)), .inr ⟨false, ?_⟩⟩
      simpa [State.rangeFlags] using
        State.undefFlagsBut_undef (s.setView_draws_le w x v) (s.setView w x v).params.ovfBit.index false
    · obtain rfl := Except.ok.inj h
      exact ⟨(Effect.undefFlagsBut s _ _).mono (by simp), .inr ⟨true, State.undefFlagsBut_undef (Nat.le_refl _) _ _⟩⟩
  | mem m =>
    obtain ⟨a, ha, h⟩ := bind_eq_ok h
    obtain ⟨u, hu, h⟩ := bind_eq_ok h
    obtain rfl := Except.ok.inj h
    have hw : writePlace .w32 (.mem m) r s = .ok u := by simp [writePlace, ha, hu]
    have := ((writePlace_effect hw).mono (gs := [.banks, .mem, .flag]) (by simp)).thenUndef (by simp)
    exact ⟨this.1, .inl this.2⟩

theorem floatUnary_effect {f : Word → Word} {dst src : FloatPlace} {s t : State} (h : floatUnary f dst src s = .next t) :
    Effect [.banks, .mem, .flag] s t ∧ (FlagsUndef s t ∨ ∃ b, FlagsUndefBut s.params.ovfBit.index b s t) := by
  obtain ⟨x, -, h⟩ := bind_eq_ok (finish_eq_next h)
  exact writeFloat_effect h

theorem powOp_effect {dst src : FloatPlace} {s t : State} (h : powOp dst src s = .next t) :
    Effect [.banks, .mem, .flag] s t ∧ (FlagsUndef s t ∨ ∃ b, FlagsUndefBut s.params.ovfBit.index b s t) := by
  obtain ⟨y, -, h⟩ := bind_eq_ok (finish_eq_next h)
  obtain ⟨x, -, h⟩ := bind_eq_ok h
  exact writeFloat_effect h

/-! ## Done, operation by operation -/

theorem Done.of_binary {m : Family} {w : Width} {f : BitVec w.bits → BitVec w.bits → BitVec w.bits} {dst : Place}
    {src : Source w} {s t : State} (hm : m.mayChange = [.banks, .mem, .flag]) (hf : FlagsUndef s t → m.FlagRule s t)
    (h : finish (binary w f dst src s) = .next t) : Done m s t := by
  obtain ⟨h1, h2⟩ := binary_effect (finish_eq_next h)
  exact Effect.done (hm ▸ h1) (by rw [hm]; decide) (hf h2)

theorem Done.of_modify {m : Family} {w : Width} {f : BitVec w.bits → BitVec w.bits} {dst : Place} {s t : State}
    (hm : m.mayChange = [.banks, .mem, .flag]) (hf : FlagsUndef s t → m.FlagRule s t)
    (h : finish (modify w f dst s) = .next t) : Done m s t := by
  obtain ⟨h1, h2⟩ := modify_effect (finish_eq_next h)
  exact Effect.done (hm ▸ h1) (by rw [hm]; decide) (hf h2)

theorem Done.of_inv {w : Width} {a : RegIx} {s t : State} (h : invOp w a s = .next t) : Done .inv s t := by
  obtain ⟨h1, h2⟩ := modify_reg_effect (finish_eq_next h)
  exact Effect.done h1 (by decide) h2

theorem Done.of_shiftBy {m : Family} {w : Width} {f : BitVec w.bits → Nat → Option (BitVec w.bits)} {a : RegIx}
    {n : Source .w8} {s t : State} (hm : m.mayChange = [.banks, .flag]) (hf : FlagsUndef s t → m.FlagRule s t)
    (h : finish (shiftBy w f a n s) = .next t) : Done m s t := by
  obtain ⟨h1, h2⟩ := shiftBy_effect (finish_eq_next h)
  exact Effect.done (hm ▸ h1) (by rw [hm]; decide) (hf h2)

theorem Done.of_pickFloat {m : Family} {w : Width} {pick : Nat → Nat → Nat} {a : RegIx} {fb : FloatIx} {s t : State}
    (hm : m.mayChange = [.banks, .mem, .flag]) (hf : FlagsUndef s t → m.FlagRule s t)
    (h : finish (pickFloat w pick a fb s) = .next t) : Done m s t := by
  obtain ⟨h1, h2⟩ := pickFloat_effect (finish_eq_next h)
  exact Effect.done (hm ▸ h1) (by rw [hm]; decide) (hf h2)

theorem Done.of_binaryFloat {m : Family} {f : Word → Word → Word} {fa fb : FloatIx} {s t : State}
    (hm : m.mayChange = [.banks, .mem, .flag]) (hf : FlagsUndef s t → m.FlagRule s t)
    (h : finish (binaryFloat f fa fb s) = .next t) : Done m s t := by
  obtain ⟨x, -, h⟩ := bind_eq_ok (finish_eq_next h)
  obtain ⟨y, -, h⟩ := bind_eq_ok h
  obtain rfl := Except.ok.inj h
  obtain ⟨h1, h2⟩ := ((Effect.setFloat s fa (f x y)).mono (gs := [.banks, .mem, .flag]) (by simp)).thenUndef (by simp)
  exact Effect.done (hm ▸ h1) (by rw [hm]; decide) (hf h2)

theorem Done.of_floatUnary {m : Family} {f : Word → Word} {dst src : FloatPlace} {s t : State}
    (hm : m.mayChange = [.banks, .mem, .flag])
    (hf : (FlagsUndef s t ∨ ∃ b, FlagsUndefBut s.params.ovfBit.index b s t) → m.FlagRule s t)
    (h : floatUnary f dst src s = .next t) : Done m s t := by
  obtain ⟨h1, h2⟩ := floatUnary_effect h
  exact Effect.done (hm ▸ h1) (by rw [hm]; decide) (hf h2)

theorem Done.of_pow {dst src : FloatPlace} {s t : State} (h : powOp dst src s = .next t) : Done .pow s t := by
  obtain ⟨h1, h2⟩ := powOp_effect h
  exact Effect.done h1 (by decide) h2

theorem Done.of_bit {w : Width} {a : RegIx} {n : Source .w8} {s t : State} (h : bitOp w a n s = .next t) : Done .bit s t := by
  obtain ⟨d, -, h⟩ := bind_eq_ok (finish_eq_next h)
  obtain ⟨k, -, h⟩ := bind_eq_ok h
  split at h
  · obtain rfl := Except.ok.inj h
    exact Effect.done (Effect.undefFlagsBut s _ _) (by decide)
      (.inr ⟨_, State.undefFlagsBut_undef (Nat.le_refl _) s.params.bitFlag _⟩)
  · obtain rfl := Except.ok.inj h
    exact Effect.done (Effect.undefFlags s) (by decide) (.inl (State.undefFlags_undef (Nat.le_refl _)))

theorem Done.of_getbits {w : Width} {a b : RegIx} {off : Source .w8} {s t : State} (h : getbitsOp w a b off s = .next t) :
    Done .getbits s t := by
  obtain ⟨_, -, h⟩ := bind_eq_ok (finish_eq_next h)
  obtain ⟨_, -, h⟩ := bind_eq_ok h
  obtain ⟨_, -, h⟩ := bind_eq_ok h
  obtain ⟨u, hu, h⟩ := bind_eq_ok h
  obtain rfl := Except.ok.inj h
  obtain ⟨h1, h2⟩ := ((writeReg_effect hu).mono (gs := [.banks, .flag]) (by simp)).thenUndef (by simp)
  exact Effect.done h1 (by decide) h2

theorem bitWrite_effect {w : Width} {a : Addr} {off : Byte} {v : BitVec w.bits} {s t : State} (h : bitWrite w a off v s = .ok t) :
    Effect [.mem] s t := by
  obtain ⟨_, hc, h⟩ := bind_eq_ok h
  obtain rfl := Except.ok.inj h
  exact Effect.setMem fun hm => bitWriteBytes_wf hm ((checkBlock_eq_ok hc).resolve_left (by omega))

theorem Done.of_setbits {w : Width} {a b : RegIx} {off : Source .w8} {s t : State} (h : setbitsOp w a b off s = .next t) :
    Done .setbits s t := by
  obtain ⟨_, -, h⟩ := bind_eq_ok (finish_eq_next h)
  obtain ⟨_, -, h⟩ := bind_eq_ok h
  obtain ⟨_, -, h⟩ := bind_eq_ok h
  obtain ⟨u, hu, h⟩ := bind_eq_ok h
  obtain rfl := Except.ok.inj h
  obtain ⟨h1, h2⟩ := ((bitWrite_effect hu).mono (gs := [.mem, .flag]) (by simp)).thenUndef (by simp)
  exact Effect.done h1 (by decide) h2

/-! ### Control transfer and compare -/

theorem Effect.jump (s : State) (a : Addr) : Effect [.ipo] s (s.jump a) :=
  ⟨by apply Unchanged.of <;> simp [State.jump], id, rfl, Nat.le_refl _⟩

theorem Effect.jumpRelative (s : State) (off : BitVec 24) : Effect [.ipo] s (s.jumpRelative off) :=
  ⟨by apply Unchanged.of <;> simp [State.jumpRelative], id, rfl, Nat.le_refl _⟩

theorem Effect.halt (s : State) : Effect [.running, .ipo] s s.halt :=
  ⟨by apply Unchanged.of <;> simp, id, rfl, Nat.le_succ _⟩

theorem Done.of_jp {target : MemRef} {s t : State} (h : jpOp target s = .next t) : Done .jp s t := by
  obtain ⟨a, -, h⟩ := bind_eq_ok (finish_eq_next h)
  obtain rfl := Except.ok.inj h
  exact Effect.done (Effect.jump s a) (by decide) ⟨rfl, rfl⟩

theorem Done.of_jpCond {flag : FlagIx} {addr : Addr} {s t : State} (h : jpCondOp flag addr s = .next t) : Done .jp s t := by
  obtain ⟨c, -, h⟩ := bind_eq_ok (finish_eq_next h)
  obtain rfl := Except.ok.inj h
  split
  · exact Effect.done (Effect.jump s addr) (by decide) ⟨rfl, rfl⟩
  · exact Effect.done (Effect.refl _ s) (by decide) ⟨rfl, rfl⟩

theorem Done.of_jr {off : BitVec 24} {s t : State} (h : jrOp off s = .next t) : Done .jr s t := by
  obtain rfl := Host.Outcome.next.inj h
  exact Effect.done (Effect.jumpRelative s off) (by decide) ⟨rfl, rfl⟩

/-- A push that answers, then an `IPO` of any value. -/
theorem Done.of_push {m : Family} {s u t : State} (hm : m.mayChange = [.cs, .spc, .ipo])
    (hf : Field.flag.Same s t → m.FlagRule s t) (hu : pushReturn s = .ok u) (w : Word) (ht : t = { u with ipo := w }) :
    Done m s t := by
  unfold pushReturn at hu
  split at hu
  · next hlt =>
    obtain rfl := Except.ok.inj hu
    subst ht
    refine ⟨rfl, fun _ => ?_, fun _ => hf ⟨rfl, rfl⟩, fun hi => ?_⟩
    · rw [hm]; apply Unchanged.of <;> simp
    · exact ⟨hi.memory, hi.highMemory, hi.bankCount, hi.bankExists, by simpa using hi.stackSize, hlt⟩
  · cases hu

theorem Done.of_callTo {a : Addr} {s t : State} (h : callTo a s = .ok t) : Done .call s t := by
  obtain ⟨u, hu, h⟩ := bind_eq_ok h
  exact Done.of_push rfl id hu _ (Except.ok.inj h).symm

theorem Done.of_call {target : MemRef} {s t : State} (h : callOp target s = .next t) : Done .call s t := by
  obtain ⟨a, -, h⟩ := bind_eq_ok (finish_eq_next h)
  exact Done.of_callTo h

theorem Done.of_callCond {flag : FlagIx} {addr : Addr} {s t : State} (h : callCondOp flag addr s = .next t) :
    Done .call s t := by
  obtain ⟨c, -, h⟩ := bind_eq_ok (finish_eq_next h)
  split at h
  · exact Done.of_callTo h
  · obtain rfl := Except.ok.inj h
    exact ⟨rfl, fun _ => Unchanged.refl _ s, fun _ => ⟨rfl, rfl⟩, id⟩

theorem Done.of_callr {off : BitVec 24} {s t : State} (h : callrOp off s = .next t) : Done .callr s t := by
  obtain ⟨u, hu, h⟩ := bind_eq_ok (finish_eq_next h)
  exact Done.of_push rfl id hu _ (Except.ok.inj h).symm

theorem Done.of_popReturn {m : Family} (s : State) (hm : m.mayChange = [.spc, .ipo, .running])
    (hf : Field.flag.Same s s.popReturn → m.FlagRule s s.popReturn) : Done m s s.popReturn := by
  refine ⟨rfl, fun _ => ?_, fun _ => hf ⟨rfl, rfl⟩, fun hi => ?_⟩
  · rw [hm]; apply Unchanged.of <;> simp
  · exact ⟨hi.memory, hi.highMemory, hi.bankCount, hi.bankExists, hi.stackSize, by
      have := hi.stackDepth
      simp only [State.popReturn_spc, State.popReturn_params]; omega⟩

theorem Done.of_doReturn {m : Family} (s : State) (hm : m.mayChange = [.spc, .ipo, .running])
    (hf : ∀ t : State, Field.flag.Same s t → m.FlagRule s t) : Done m s s.doReturn := by
  unfold State.doReturn
  split
  · exact ⟨rfl, fun _ => hm ▸ (Effect.halt s).unchanged.mono (by simp), fun _ => hf _ ⟨rfl, rfl⟩, (Effect.halt s).inv (by decide)⟩
  · exact Done.of_popReturn s hm (hf _)

theorem Done.of_ret {s t : State} (h : retOp s = .next t) : Done .ret s t := by
  obtain rfl := Host.Outcome.next.inj h
  exact Done.of_doReturn s rfl fun _ => id

theorem Done.of_retif {flag : FlagIx} {s t : State} (h : retifOp flag s = .next t) : Done .retif s t := by
  obtain ⟨c, -, h⟩ := bind_eq_ok (finish_eq_next h)
  obtain rfl := Except.ok.inj h
  have ht : Done .retif s s.tick :=
    ⟨rfl, fun _ => (Effect.tick s).unchanged.mono (by simp), fun _ => ⟨rfl, rfl⟩, (Effect.tick s).inv (by decide)⟩
  have hh : Done .retif s s.tick.halt := by
    have h := ((Effect.tick s).mono (gs := [.running, .ipo]) (by simp)).trans (Effect.halt s.tick)
    exact ⟨rfl, fun _ => h.unchanged.mono (by decide), fun _ => ⟨rfl, rfl⟩, h.inv (by decide)⟩
  split
  · exact Done.of_doReturn s rfl fun _ => id
  · split
    · split
      · exact hh
      · exact ht
    · exact ⟨rfl, fun _ => Unchanged.refl _ s, fun _ => ⟨rfl, rfl⟩, id⟩

theorem compareFlags_kept (s : State) (w : Width) (d x : BitVec w.bits) (n : FlagIx)
    (h : n ∉ [(0 : FlagIx), 2, 3, 5, 6, 7]) : (s.compareFlags w d x).flagBit n = s.flagBit n ∧
      (s.compareFlags w d x).flagBitUndef n = s.flagBitUndef n := by
  simp only [List.mem_cons, List.not_mem_nil, or_false, not_or] at h
  obtain ⟨h0, h2, h3, h5, h6, h7⟩ := h
  simp only [State.flagBit, State.flagBitUndef, State.compareFlags, putBit_getLsbD, flagZero, flagSignNegative, flagOverflow,
    flagEqual, flagGreaterThan, flagLessThan, if_neg h0, if_neg h2, if_neg h3, if_neg h5, if_neg h6, if_neg h7, and_self]

theorem Done.of_scp {w : Width} {first : Place} {second : Source w} {s t : State} (h : scpOp w first second s = .next t) :
    Done .scp s t := by
  obtain ⟨d, -, h⟩ := bind_eq_ok (finish_eq_next h)
  obtain ⟨x, -, h⟩ := bind_eq_ok h
  obtain rfl := Except.ok.inj h
  have he : Effect [.flag] s (s.compareFlags w d x) :=
    ⟨by apply Unchanged.of <;> simp [State.compareFlags], id, rfl, Nat.le_succ _⟩
  exact Effect.done he (by decide) (compareFlags_kept s w d x)

/-! ### Bulk memory -/

theorem memBytes_length {m : List Host.Cell} {a n : Nat} {bs : List Byte} (h : memBytes m a n = .ok bs) : bs.length = n :=
  (memBytes_eq_ok h).1

theorem Done.of_memc {src dst len : Source .w24} {s t : State} (h : memcOp src dst len s = .next t) : Done .memc s t := by
  obtain ⟨a, -, h⟩ := bind_eq_ok (finish_eq_next h)
  obtain ⟨d, -, h⟩ := bind_eq_ok h
  obtain ⟨n, -, h⟩ := bind_eq_ok h
  obtain ⟨-, -, h⟩ := bind_eq_ok h
  obtain ⟨_, hc, h⟩ := bind_eq_ok h
  obtain ⟨bs, hb, h⟩ := bind_eq_ok h
  obtain rfl := Except.ok.inj h
  obtain ⟨h1, h2⟩ := ((Effect.setMem fun hm => copyBlock_wf hm (by
    rw [memBytes_length hb]; exact checkBlock_eq_ok hc)).mono (gs := [.mem, .flag]) (by simp)).thenUndef (by simp)
  exact Effect.done h1 (by decide) h2

theorem Done.of_memf {val : Source .w8} {addr len : Source .w24} {s t : State} (h : memfOp val addr len s = .next t) :
    Done .memf s t := by
  obtain ⟨v, -, h⟩ := bind_eq_ok (finish_eq_next h)
  obtain ⟨a, -, h⟩ := bind_eq_ok h
  obtain ⟨n, -, h⟩ := bind_eq_ok h
  obtain ⟨_, hc, h⟩ := bind_eq_ok h
  obtain rfl := Except.ok.inj h
  obtain ⟨h1, h2⟩ := ((Effect.putBytes (s := s) (bs := List.replicate n.toNat v) (by
    rw [List.length_replicate]; exact checkBlock_eq_ok hc)).mono (gs := [.mem, .flag]) (by simp)).thenUndef (by simp)
  exact Effect.done h1 (by decide) h2

theorem found_done (s : State) (a : RegIx) (r : Option Nat) : Done .find s (s.found a r) := by
  cases r with
  | some n =>
    obtain ⟨h1, h2⟩ := ((Effect.setView s .w24 a (BitVec.ofNat 24 n)).mono (gs := [.banks, .flag]) (by simp)).thenUndef (by simp)
    exact Effect.done h1 (by decide) h2
  | none =>
    obtain ⟨h1, h2⟩ := ((Effect.setViewFree s .w24 a).mono (gs := [.banks, .flag]) (by simp)).thenUndef (by simp)
    exact Effect.done h1 (by decide) h2

theorem Done.of_findByte {a : RegIx} {b : Source .w8} {s t : State} (h : findByteOp a b s = .next t) : Done .find s t := by
  obtain ⟨_, -, h⟩ := bind_eq_ok (finish_eq_next h)
  obtain ⟨_, -, h⟩ := bind_eq_ok h
  obtain ⟨r, -, h⟩ := bind_eq_ok h
  obtain rfl := Except.ok.inj h
  exact found_done s a r

theorem Done.of_findPattern {a : RegIx} {p : MemRef} {s t : State} (h : findPatternOp a p s = .next t) : Done .find s t := by
  obtain ⟨_, -, h⟩ := bind_eq_ok (finish_eq_next h)
  obtain ⟨_, -, h⟩ := bind_eq_ok h
  obtain ⟨_, -, h⟩ := bind_eq_ok h
  obtain ⟨r, -, h⟩ := bind_eq_ok h
  obtain rfl := Except.ok.inj h
  exact found_done s a r

theorem Effect.loadRegs (i : Nat) (bs : List Byte) (s : State) : Effect [.banks] s (Machine.loadRegs i bs s) := by
  induction bs generalizing i s with
  | nil => exact Effect.refl _ s
  | cons b bs ih => exact (Effect.setView s .w8 _ b).trans (ih _ _)

theorem Done.of_ldregs {a b : RegIx} {block : MemRef} {s t : State} (h : ldregsOp a b block s = .next t) : Done .ldregs s t := by
  obtain ⟨_, -, h⟩ := bind_eq_ok (finish_eq_next h)
  obtain ⟨-, -, h⟩ := bind_eq_ok h
  obtain ⟨bs, -, h⟩ := bind_eq_ok h
  obtain ⟨-, -, h⟩ := bind_eq_ok h
  obtain rfl := Except.ok.inj h
  obtain ⟨h1, h2⟩ := ((Effect.loadRegs _ bs s).mono (gs := [.banks, .flag]) (by simp)).thenUndef (by simp)
  exact Effect.done h1 (by decide) h2

theorem Done.of_stregs {a b : RegIx} {block : MemRef} {s t : State} (h : stregsOp a b block s = .next t) : Done .stregs s t := by
  obtain ⟨addr, -, h⟩ := bind_eq_ok (finish_eq_next h)
  obtain ⟨_, hc, h⟩ := bind_eq_ok h
  obtain ⟨bs, hb, h⟩ := bind_eq_ok h
  obtain rfl := Except.ok.inj h
  have hl : bs.length = 0 ∨ addr.toNat + bs.length ≤ memSize := by
    rw [storedRegs_length hb]; exact checkBlock_eq_ok hc
  obtain ⟨h1, h2⟩ := ((Effect.putBytes (s := s) hl).mono (gs := [.mem, .flag]) (by simp)).thenUndef (by simp)
  exact Effect.done h1 (by decide) h2

/-! ### Miscellaneous and system -/

theorem Done.of_ex {w : Width} {a b : RegIx} {s t : State} (h : exOp w a b s = .next t) : Done .ex s t := by
  obtain ⟨_, -, h⟩ := bind_eq_ok (finish_eq_next h)
  obtain ⟨_, -, h⟩ := bind_eq_ok h
  obtain ⟨u, hu, h⟩ := bind_eq_ok h
  obtain ⟨v, hv, h⟩ := bind_eq_ok h
  obtain rfl := Except.ok.inj h
  obtain ⟨h1, h2⟩ := (((writeReg_effect hu).trans (writeReg_effect hv)).mono (gs := [.banks, .flag]) (by simp)).thenUndef (by simp)
  exact Effect.done h1 (by decide) h2

theorem Done.of_banksel {n : Source .w8} {s t : State} (h : bankselOp n s = .next t) : Done .banksel s t := by
  obtain ⟨v, -, h⟩ := bind_eq_ok (finish_eq_next h)
  obtain ⟨u, hu, h⟩ := bind_eq_ok h
  obtain rfl := Except.ok.inj h
  unfold setBank at hu
  split at hu
  · next hlt =>
    obtain rfl := Except.ok.inj hu
    refine ⟨rfl, fun _ => ?_, fun _ => State.undefFlags_undef (Nat.le_refl _), fun hi => ?_⟩
    · apply Unchanged.of <;> simp [Family.mayChange]
    · exact ⟨hi.memory, hi.highMemory, hi.bankCount, hlt, hi.stackSize, hi.stackDepth⟩
  · cases hu

theorem Done.of_rand {w : Width} {a : RegIx} {s t : State} (h : randOp w a s = .next t) : Done .rand s t := by
  obtain ⟨u, hu, h⟩ := bind_eq_ok (finish_eq_next h)
  obtain rfl := Except.ok.inj h
  obtain ⟨h1, h2⟩ := ((((Effect.tick s).mono (by simp)).trans (writeReg_effect hu)).mono
    (gs := [.banks, .rng, .flag]) (by simp)).thenUndef (by simp)
  exact Effect.done h1 (by decide) h2

theorem Done.of_randSeed {seed : Source .w32} {s t : State} (h : randSeedOp seed s = .next t) : Done .rand s t := by
  obtain ⟨v, -, h⟩ := bind_eq_ok (finish_eq_next h)
  obtain rfl := Except.ok.inj h
  have he : Effect [.banks, .rng, .flag] s (s.reseed v) :=
    ⟨by apply Unchanged.of <;> simp [State.reseed], id, rfl, Nat.le_succ _⟩
  obtain ⟨h1, h2⟩ := he.thenUndef (by simp)
  exact Effect.done h1 (by decide) h2

theorem Done.of_wait {ms : Source .w16} {s t : State} (h : waitOp ms s = .next t) : Done .wait s t := by
  obtain ⟨v, -, h⟩ := bind_eq_ok (finish_eq_next h)
  obtain rfl := Except.ok.inj h
  obtain ⟨h1, h2⟩ := ((Effect.record s (.wait v)).mono (gs := [.events, .flag]) (by simp)).thenUndef (by simp)
  exact Effect.done h1 (by decide) h2

theorem Done.of_setvar {index value : Source .w32} {s t : State} (h : setvarOp index value s = .next t) : Done .setvar s t := by
  obtain ⟨k, -, h⟩ := bind_eq_ok (finish_eq_next h)
  obtain ⟨v, -, h⟩ := bind_eq_ok h
  obtain rfl := Except.ok.inj h
  refine ⟨rfl, fun _ => ?_, fun _ => State.undefFlags_undef (Nat.le_refl _), fun hi => ?_⟩
  · apply Unchanged.of <;> simp [Family.mayChange, State.setVar]
  · exact ⟨hi.memory, Store.put_wf _ hi.highMemory k.isLt, hi.bankCount, hi.bankExists, hi.stackSize, hi.stackDepth⟩

theorem Done.of_getvar {a : RegIx} {index : Source .w32} {s t : State} (h : getvarOp a index s = .next t) : Done .getvar s t := by
  obtain ⟨_, -, h⟩ := bind_eq_ok (finish_eq_next h)
  obtain ⟨_, -, h⟩ := bind_eq_ok h
  obtain ⟨u, hu, h⟩ := bind_eq_ok h
  obtain rfl := Except.ok.inj h
  obtain ⟨h1, h2⟩ := ((writeReg_effect hu).mono (gs := [.banks, .flag]) (by simp)).thenUndef (by simp)
  exact Effect.done h1 (by decide) h2

theorem Done.of_smul {w : Width} {src : Source w} {s t : State} (h : smulOp w src s = .next t) : Done .smul s t := by
  unfold smulOp at h
  split at h
  · cases h
  · split at h
    · obtain rfl := Host.Outcome.next.inj h
      exact Effect.done (Effect.record s _) (by decide) ⟨rfl, rfl⟩
    · cases h

theorem Done.of_graphics {m : Family} {e : HostEvent} {s : State} (hm : m.mayChange = [.mem, .events, .flag])
    (hf : FlagsUndef s (s.graphics e) → m.FlagRule s (s.graphics e)) : Done m s (s.graphics e) := by
  have hd : Effect [.mem] (s.record e) (s.record e).dropFootprint := Effect.setMem fun hm => Store.drop_wf _ hm
  obtain ⟨h1, h2⟩ := (((Effect.record s e).mono (gs := [.mem, .events, .flag]) (by simp)).trans (hd.mono (by simp))).thenUndef
    (by simp)
  exact Effect.done (hm ▸ h1) (by rw [hm]; decide) (hf h2)

theorem Done.of_vcl {b : Source .w8} {s t : State} (h : vclOp b s = .next t) : Done .vcl s t := by
  obtain ⟨v, -, h⟩ := bind_eq_ok (finish_eq_next h)
  obtain rfl := Except.ok.inj h
  exact Done.of_graphics rfl id

theorem Done.of_vdl {b : Source .w8} {s t : State} (h : vdlOp b s = .next t) : Done .vdl s t := by
  obtain ⟨v, -, h⟩ := bind_eq_ok (finish_eq_next h)
  obtain rfl := Except.ok.inj h
  exact Done.of_graphics rfl id

/-- What INT's handler leaves meets the invariant (46_misc_system.md R393; log 14). -/
theorem adopt_inv {s t : State} (h : s.bank < s.params.numBanks) : (s.adopt t).Inv := by
  refine ⟨Store.normal_wf _ _, Store.normal_wf _ _, by simp [State.adopt, fitList], ?_, by simp [State.adopt, fitList],
    by simp [State.adopt]⟩
  simp only [State.adopt]
  split <;> assumption

theorem Done.of_int {r : RegIx} {n arg : Byte} {s t : State} (h : intOp r n arg s = .next t) : Done .int s t := by
  obtain rfl := Host.Outcome.next.inj h
  exact ⟨rfl, fun hc => absurd rfl hc, fun hc => absurd rfl hc, fun hi => adopt_inv hi.bankExists⟩

theorem Done.of_play {s t : State} (h : playOp s = .next t) : Done .play s t := by cases h

theorem Done.of_break {s t : State} (h : breakOp s = .next t) : Done .brk s t := by
  obtain rfl := Host.Outcome.next.inj h
  exact Effect.done (Effect.halt s) (by decide) ⟨rfl, rfl⟩

end Machine

end Sys2Proof
end

