-- ==== Sys2Proof/Laws/Encoding.lean ====
section
/-! SUPPORT. The encoder and the decoder: the fields of a form written and read back (30_encoding.md R113 to R118). -/

namespace Sys2Proof

/-- The fields a format has, and the trailing ones. -/
def Fields.keep (f : Fields) : Format → Fields
  | .p => { imms := f.imms }
  | .s5 => { f := f.f, imms := f.imms }
  | .m2 => { a := f.a, b := f.b, imms := f.imms }
  | .m3 => { a := f.a, b := f.b, c := f.c, imms := f.imms }
  | .f2 => { fa := f.fa, fb := f.fb, imms := f.imms }

/-- The fields are ones this row has, each in its range. -/
def Fields.Of (f : Fields) (r : Row) : Prop :=
  f.keep r.fmt = f ∧ List.Forall₂ (fun n v => v < 256 ^ n) r.trail f.imms

/-- The instruction is one row of its family, made of the fields its code names. -/
def Instr.HasRow (i : Instr) : Prop :=
  ∃ r, i.code.family.rows[i.code.index]? = some r ∧ r.build i.code.fields = i ∧ i.code.fields.Of r

theorem widen_narrow (f : FloatIx) : (f.setWidth 5 : BitVec 5).setWidth 4 = f := by
  ext; simp

theorem Fields.imm_zero {n : Nat} (f a b c fa fb) (v : BitVec n) (l : List Nat) :
    (Fields.mk f a b c fa fb (v.toNat :: l)).imm 0 = v := by simp [Fields.imm]

theorem Fields.imm_one {n : Nat} (f a b c fa fb) (u : Nat) (v : BitVec n) (l : List Nat) :
    (Fields.mk f a b c fa fb (u :: v.toNat :: l)).imm 1 = v := by simp [Fields.imm]

theorem Fields.imm_two {n : Nat} (f a b c fa fb) (u u' : Nat) (v : BitVec n) (l : List Nat) :
    (Fields.mk f a b c fa fb (u :: u' :: v.toNat :: l)).imm 2 = v := by simp [Fields.imm]

/-! ## The rows -/

theorem Family.rows_length (m : Family) : m.rows.length = m.formCount := by cases m <;> rfl

/-- Every row has the variant shift of its format and a length of 2 to 13 bytes (R110, R112, R115). -/
theorem Family.rows_ok (m : Family) : m.rows.all (fun r =>
    (match r.fmt with | .p => false | .s5 => m.shift == 5 | _ => m.shift == 2) &&
      decide (2 ≤ r.length) && decide (r.length ≤ 13)) = true := by cases m <;> rfl

theorem Family.row_shift {m : Family} {r : Row} (h : r ∈ m.rows) :
    (match r.fmt with | .p => false | .s5 => m.shift == 5 | _ => m.shift == 2) = true := by
  have := List.all_eq_true.mp m.rows_ok r h
  simp only [Bool.and_eq_true] at this
  exact this.1.1

theorem Family.row_length {m : Family} {r : Row} (h : r ∈ m.rows) : 2 ≤ r.length ∧ r.length ≤ 13 := by
  have := List.all_eq_true.mp m.rows_ok r h
  simp only [Bool.and_eq_true, decide_eq_true_eq] at this
  exact ⟨this.1.2, this.2⟩

/-! ## Trailing fields -/

theorem readTrail_take {ns : List Nat} {bs : List Byte} {vs : List Nat} (h : readTrail ns bs = some vs) :
    ns.sum ≤ bs.length ∧ ∀ rest, readTrail ns (bs.take ns.sum ++ rest) = some vs := by
  induction ns generalizing bs vs with
  | nil => simpa [readTrail] using h
  | cons n ns ih =>
    simp only [readTrail] at h
    split at h
    · cases h
    · next hn =>
      obtain ⟨us, hu, rfl⟩ := Option.map_eq_some_iff.mp h
      obtain ⟨h1, h2⟩ := ih hu
      rw [List.length_drop] at h1
      refine ⟨by rw [List.sum_cons]; omega, fun rest => ?_⟩
      have e : bs.take (n + ns.sum) = bs.take n ++ (bs.drop n).take ns.sum := List.take_add
      have hl : (bs.take n).length = n := by rw [List.length_take]; omega
      rw [List.sum_cons, e, List.append_assoc, readTrail, if_neg (by rw [List.length_append]; omega),
        List.drop_left' hl, List.take_left' hl, h2]
      rfl

theorem readTrail_trailBytes {ns vs : List Nat} (h : List.Forall₂ (fun n v => v < 256 ^ n) ns vs) (rest : List Byte) :
    readTrail ns (trailBytes ns vs ++ rest) = some vs := by
  induction h with
  | nil => rfl
  | @cons n v ns vs hv _ ih =>
    have e : trailBytes (n :: ns) (v :: vs) = natToBe n v ++ trailBytes ns vs := rfl
    rw [e, List.append_assoc, readTrail, if_neg (by simp), List.drop_left' (natToBe_length n v),
      List.take_left' (natToBe_length n v), ih, beToNat_natToBe, Nat.mod_eq_of_lt hv]
    rfl

/-! ## Formats -/

theorem readFormat_take {fmt : Format} {s : Byte} {bs rest : List Byte} {f : Fields} (h : readFormat fmt s bs = some (f, rest)) :
    fmt.bytes - 2 ≤ bs.length ∧ rest = bs.drop (fmt.bytes - 2) ∧
      ∀ tail, readFormat fmt s (bs.take (fmt.bytes - 2) ++ tail) = some (f, tail) := by
  cases fmt with
  | p => simp_all [readFormat, Format.bytes]
  | s5 => simp_all [readFormat, Format.bytes]
  | m2 =>
    cases bs with
    | nil => cases h
    | cons b bs => simp_all [readFormat, Format.bytes]
  | m3 =>
    cases bs with
    | nil => cases h
    | cons b bs =>
      cases bs with
      | nil => cases h
      | cons c bs => simp_all [readFormat, Format.bytes]
  | f2 =>
    cases bs with
    | nil => cases h
    | cons b bs => simp_all [readFormat, Format.bytes]

/-- Reading uses only the bytes of the row. -/
theorem readFields_take {r : Row} {s : Byte} {bs : List Byte} {f : Fields} (h2 : 2 ≤ r.fmt.bytes) (h : readFields r s bs = some f) :
    r.length - 2 ≤ bs.length ∧ ∀ rest, readFields r s (bs.take (r.length - 2) ++ rest) = some f := by
  unfold readFields at h
  split at h
  · cases h
  · next g tail hg =>
    obtain ⟨vs, hv, rfl⟩ := Option.map_eq_some_iff.mp h
    obtain ⟨h3, rfl, h4⟩ := readFormat_take hg
    obtain ⟨h5, h6⟩ := readTrail_take hv
    rw [List.length_drop] at h5
    refine ⟨by unfold Row.length; omega, fun rest => ?_⟩
    have e : bs.take (r.length - 2) = bs.take (r.fmt.bytes - 2) ++ (bs.drop (r.fmt.bytes - 2)).take r.trail.sum := by
      rw [← List.take_add]; congr 1; unfold Row.length; omega
    simp only [readFields, e, List.append_assoc, h4, h6]
    rfl

/-- The low bits of a sub-opcode byte. -/
theorem sub_low {v k l : Nat} (hk : k ≤ 8) (hv : v < 2 ^ (8 - k)) (hl : l < 2 ^ k) :
    (BitVec.ofNat 8 (v * 2 ^ k + l)).toNat = v * 2 ^ k + l ∧ (v * 2 ^ k + l) / 2 ^ k = v ∧ (v * 2 ^ k + l) % 2 ^ k = l := by
  have hp := Nat.two_pow_pos k
  have h8 : 2 ^ (8 - k) * 2 ^ k = 256 := by rw [← Nat.pow_add, Nat.sub_add_cancel hk]
  have hlt : v * 2 ^ k + l < 256 := by
    have := Nat.mul_le_mul_right (2 ^ k) (Nat.succ_le_of_lt hv)
    rw [h8, Nat.succ_mul] at this
    omega
  refine ⟨by rw [BitVec.toNat_ofNat, Nat.mod_eq_of_lt hlt], ?_, ?_⟩
  · rw [Nat.mul_comm, Nat.mul_add_div hp, Nat.div_eq_of_lt hl, Nat.add_zero]
  · rw [Nat.mul_comm, Nat.mul_add_mod, Nat.mod_eq_of_lt hl]

theorem Fields.subLow_lt (f : Fields) {m : Family} {r : Row} (h : r ∈ m.rows) : f.subLow r.fmt < 2 ^ m.shift := by
  have := Family.row_shift h
  revert this
  cases r.fmt <;> simp only [Fields.subLow, beq_iff_eq] <;> intro hs
  · cases hs
  · rw [hs]; exact f.f.isLt
  · rw [hs]; exact (f.a.extractLsb' 3 2).isLt
  · rw [hs]; exact (f.a.extractLsb' 3 2).isLt
  · exact Nat.two_pow_pos _

/-- A register field split over the sub-opcode and the next byte is put together again (R113). -/
theorem mixed_join (a b : RegIx) (s : Byte) (hs : s.toNat % 4 = (a.extractLsb' 3 2).toNat) :
    mixedA s (a.extractLsb' 0 3 ++ b : BitVec 8) = a ∧ mixedB (a.extractLsb' 0 3 ++ b : BitVec 8) = b := by
  have h1 : s.extractLsb' 0 2 = a.extractLsb' 3 2 := by
    apply BitVec.eq_of_toNat_eq
    rw [← hs]; simp [BitVec.extractLsb'_toNat]
  constructor
  · rw [mixedA, h1]
    ext i hi
    simp only [BitVec.getElem_append, BitVec.getElem_extractLsb', BitVec.getLsbD_append, BitVec.getLsbD_extractLsb']
    by_cases h : i < 3
    · have e : ¬ 5 + i < 5 := by omega
      simp [h, BitVec.getLsbD_eq_getElem hi]
    · have e : 3 + (i - 3) = i := by omega
      simp [h, e, BitVec.getLsbD_eq_getElem hi]
  · rw [mixedB]
    ext i hi
    rw [BitVec.getElem_extractLsb', Nat.zero_add]
    exact (BitVec.getLsbD_append (x := a.extractLsb' 0 3) (y := b)).trans (by simp [hi])

/-- Fields of a row, written and read back. -/
theorem readFields_written {m : Family} {r : Row} (hr : r ∈ m.rows) {f : Fields} (hf : f.Of r) {v : Nat}
    (hv : v < 2 ^ (8 - m.shift)) (rest : List Byte) :
    readFields r (BitVec.ofNat 8 (v * 2 ^ m.shift + f.subLow r.fmt)) (f.formatBytes r.fmt ++ trailBytes r.trail f.imms ++ rest) =
      some f := by
  have hk : m.shift ≤ 8 := by cases m <;> decide
  obtain ⟨h1, -, h3⟩ := sub_low hk hv (f.subLow_lt hr)
  have hs := Family.row_shift hr
  obtain ⟨hkeep, himm⟩ := hf
  have ht := readTrail_trailBytes himm rest
  rw [← h1] at h3
  generalize BitVec.ofNat 8 (v * 2 ^ m.shift + f.subLow r.fmt) = sb at *
  obtain ⟨fmt, trail, build⟩ := r
  dsimp only at *
  rw [readFields]
  dsimp only
  cases fmt with
  | p => cases hs
  | s5 =>
    simp only [beq_iff_eq] at hs
    rw [hs] at h3
    simp only [readFormat, Fields.formatBytes, List.nil_append, ht, Option.map_some, Option.some.injEq]
    rw [← hkeep]
    simp only [Fields.keep, Fields.mk.injEq, and_true]
    apply BitVec.eq_of_toNat_eq
    simpa [Fields.subLow, BitVec.extractLsb'_toNat] using h3
  | m2 =>
    simp only [beq_iff_eq] at hs
    rw [hs] at h3
    obtain ⟨e1, e2⟩ := mixed_join f.a f.b sb h3
    simp only [readFormat, Fields.formatBytes, List.cons_append, List.nil_append, ht, Option.map_some, e1, e2]
    exact congrArg some hkeep
  | m3 =>
    simp only [beq_iff_eq] at hs
    rw [hs] at h3
    obtain ⟨e1, e2⟩ := mixed_join f.a f.b sb h3
    have e3 : (f.c.setWidth 8 : Byte).extractLsb' 0 5 = f.c := by ext i hi; simp [hi]; omega
    simp only [readFormat, Fields.formatBytes, List.cons_append, List.nil_append, ht, Option.map_some, e1, e2, e3]
    exact congrArg some hkeep
  | f2 =>
    have e1 : (f.fa ++ f.fb : BitVec 8).extractLsb' 4 4 = f.fa := by
      ext i hi
      rw [BitVec.getElem_extractLsb']
      exact (BitVec.getLsbD_append (x := f.fa) (y := f.fb)).trans (by simp [BitVec.getLsbD_eq_getElem hi])
    have e2 : (f.fa ++ f.fb : BitVec 8).extractLsb' 0 4 = f.fb := by
      ext i hi
      rw [BitVec.getElem_extractLsb', Nat.zero_add]
      exact (BitVec.getLsbD_append (x := f.fa) (y := f.fb)).trans (by simp [hi])
    simp only [readFormat, Fields.formatBytes, List.cons_append, List.nil_append, ht, Option.map_some, e1, e2]
    exact congrArg some hkeep

/-! ## Classification under well-formed tables (R129) -/

/-- In a list without repeats that stands beside another, an entry is found with its partner and alone. -/
theorem filter_zip_nodup {α β : Type} [BEq β] [LawfulBEq β] {l : List α} {d : List β} (hn : d.Nodup) (k : Nat) {x : α} {y : β}
    (hx : l[k]? = some x) (hy : d[k]? = some y) : (l.zip d).filter (fun p => p.2 == y) = [(x, y)] := by
  induction l generalizing d k with
  | nil => simp at hx
  | cons a l ih =>
    cases d with
    | nil => simp at hy
    | cons b d =>
      obtain ⟨h1, h2⟩ := List.nodup_cons.mp hn
      cases k with
      | zero =>
        simp only [List.getElem?_cons_zero, Option.some.injEq] at hx hy
        subst hx hy
        simp only [List.zip_cons_cons, List.filter_cons, beq_self_eq_true, if_true, List.cons.injEq, true_and]
        refine List.filter_eq_nil_iff.mpr fun p hp => ?_
        intro he
        exact h1 (eq_of_beq he ▸ (List.of_mem_zip hp).2)
      | succ k =>
        simp only [List.getElem?_cons_succ] at hx hy
        have hb : (b == y) = false := beq_eq_false_iff_ne.mpr fun e => h1 (e ▸ List.mem_of_getElem? hy)
        simp only [List.zip_cons_cons, List.filter_cons, hb, Bool.false_eq_true, if_false]
        exact ih h2 k hx hy

theorem find_zip_nodup {α β γ : Type} [BEq γ] [LawfulBEq γ] (g : β → γ) {l : List α} {d : List β} (hn : (d.map g).Nodup) (k : Nat)
    {x : α} {y : β} (hx : l[k]? = some x) (hy : d[k]? = some y) : (l.zip d).find? (fun p => g p.2 == g y) = some (x, y) := by
  induction l generalizing d k with
  | nil => simp at hx
  | cons a l ih =>
    cases d with
    | nil => simp at hy
    | cons b d =>
      obtain ⟨h1, h2⟩ := List.nodup_cons.mp hn
      cases k with
      | zero =>
        simp only [List.getElem?_cons_zero, Option.some.injEq] at hx hy
        subst hx hy
        simp
      | succ k =>
        simp only [List.getElem?_cons_succ] at hx hy
        have hb : (g b == g y) = false := beq_eq_false_iff_ne.mpr fun e =>
          h1 (e ▸ List.mem_map_of_mem (List.mem_of_getElem? hy))
        simp only [List.zip_cons_cons, List.find?_cons, hb]
        exact ih h2 k hx hy

theorem Family.all_index (m : Family) : Family.all[m.index]? = some m := by cases m <;> rfl

/-- The entry of a family stands at its place in well-formed tables. -/
theorem Encoding.code_at {e : Encoding} (h : e.wellFormed = true) (m : Family) : e.families[m.index]? = some (e.code m) := by
  simp only [Encoding.wellFormed, Bool.and_eq_true] at h
  have hl : e.families.length = 48 := by simpa [Encoding.complete, Family.all] using h.1.1.1.1.1.1
  have hm : m.index < e.families.length := by rw [hl]; cases m <;> decide
  rw [Encoding.code, List.getD_eq_getElem?_getD, List.getElem?_eq_getElem hm]
  rfl

/-- A family's primary byte is classified as that family. -/
theorem classifyPrimary_opc {e : Encoding} (h : e.wellFormed = true) (m : Family) :
    classifyPrimary e (e.code m).opc = .family m (e.code m) := by
  have hc := e.code_at h m
  simp only [Encoding.wellFormed, Bool.and_eq_true] at h
  have hn : (e.families.map FamilyCode.opc).Nodup := of_decide_eq_true h.1.1.1.1.1.2
  rw [classifyPrimary, find_zip_nodup FamilyCode.opc hn m.index m.all_index hc]

/-- What the well-formed tables say of one family. -/
theorem Encoding.code_ok {e : Encoding} (h : e.wellFormed = true) (m : Family) :
    (e.code m).codes.length = m.formCount ∧ (∀ c ∈ (e.code m).codes, c.k = m.shift ∧ c.v < 2 ^ (8 - m.shift)) ∧
      (e.code m).codes.Nodup := by
  have hc := e.code_at h m
  simp only [Encoding.wellFormed, Bool.and_eq_true] at h
  have hz : (m, e.code m) ∈ Family.all.zip e.families := by
    rw [List.mem_iff_getElem?]
    exact ⟨m.index, by rw [List.getElem?_zip_eq_some]; exact ⟨m.all_index, hc⟩⟩
  have h1 := List.all_eq_true.mp h.1.1.1.1.2 _ hz
  have h2 := List.all_eq_true.mp h.1.1.1.2 _ hz
  have h3 := List.all_eq_true.mp h.1.1.2 _ (List.mem_of_getElem? hc)
  refine ⟨by simpa using h1, fun c hcm => ?_, of_decide_eq_true h3⟩
  have := List.all_eq_true.mp h2 c hcm
  simp only [Bool.and_eq_true, beq_iff_eq, decide_eq_true_eq] at this
  exact ⟨this.1, this.1 ▸ this.2⟩

/-- The sub-opcode of a form is classified as that form. -/
theorem classifySub_form {e : Encoding} (h : e.wellFormed = true) {m : Family} {k : Nat} {r : Row} (hr : m.rows[k]? = some r)
    {l : Nat} (hl : l < 2 ^ m.shift) :
    ∃ v, v < 2 ^ (8 - m.shift) ∧ (e.code m).codes.getD k default = ⟨m.shift, v⟩ ∧
      classifySub m (e.code m) (BitVec.ofNat 8 (v * 2 ^ m.shift + l)) = .form r := by
  obtain ⟨h1, h2, h3⟩ := Encoding.code_ok h m
  have hk : k < (e.code m).codes.length := by
    rw [h1, ← m.rows_length]
    exact (List.getElem?_eq_some_iff.mp hr).1
  have hc : (e.code m).codes[k]? = some (e.code m).codes[k] := List.getElem?_eq_getElem hk
  obtain ⟨e1, e2⟩ := h2 _ (List.getElem_mem hk)
  refine ⟨(e.code m).codes[k].v, e2, ?_, ?_⟩
  · rw [List.getD_eq_getElem?_getD, hc, Option.getD_some, ← e1]
  · have h8 : m.shift ≤ 8 := by cases m <;> decide
    obtain ⟨s1, s2, -⟩ := sub_low h8 e2 hl
    rw [classifySub]
    have hp : (m.rows.zip (e.code m).codes).filter
        (fun p => (BitVec.ofNat 8 ((e.code m).codes[k].v * 2 ^ m.shift + l)).toNat >>> p.2.k == p.2.v) =
        (m.rows.zip (e.code m).codes).filter (fun p => p.2 == (e.code m).codes[k]) := by
      refine List.filter_congr fun p hp => ?_
      obtain ⟨q1, q2⟩ := h2 p.2 (List.of_mem_zip hp).2
      rw [s1, Nat.shiftRight_eq_div_pow, q1, s2, Bool.eq_iff_iff, beq_iff_eq, beq_iff_eq]
      constructor
      · intro hv
        have hkk : p.2.k = (e.code m).codes[k].k := by rw [q1, e1]
        generalize (e.code m).codes[k] = c at *
        obtain ⟨ck, cv⟩ := c
        rcases p with ⟨p1, pk, pv⟩
        simp_all
      · intro hv; rw [hv]
    rw [hp, filter_zip_nodup h3 k hr hc]

/-! ## The decoder, case by case -/

theorem decodeWith_miss {e : Encoding} {op : Byte} (h : classifyPrimary e op = .miss) (bs : List Byte) :
    decodeWith e (op :: bs) = .miss 1 := by
  simp only [decodeWith, h]

theorem decodeWith_unknown {e : Encoding} {op : Byte} (h : classifyPrimary e op = .unknown) (bs : List Byte) :
    decodeWith e (op :: bs) = .unknown := by
  simp only [decodeWith, h]

theorem decodeWith_brk {e : Encoding} {op : Byte} {fc : FamilyCode} (h : classifyPrimary e op = .family .brk fc) (bs : List Byte) :
    decodeWith e (op :: bs) = .instr .brk 1 := by
  simp only [decodeWith, h]

theorem decodeWith_play {e : Encoding} {op : Byte} {fc : FamilyCode} (h : classifyPrimary e op = .family .play fc) (s : Byte)
    (bs : List Byte) : decodeWith e (op :: s :: bs) = .instr .play 2 := by
  simp only [decodeWith, h]

theorem decodeWith_family_nil {e : Encoding} {op : Byte} {m : Family} {fc : FamilyCode}
    (h : classifyPrimary e op = .family m fc) (hb : m ≠ .brk) : decodeWith e [op] = .short := by
  cases m <;> first | exact absurd rfl hb | simp only [decodeWith, h]

theorem decodeWith_family {e : Encoding} {op : Byte} {m : Family} {fc : FamilyCode} (h : classifyPrimary e op = .family m fc)
    (hb : m ≠ .brk) (hp : m ≠ .play) (s : Byte) (bs : List Byte) :
    decodeWith e (op :: s :: bs) = match classifySub m fc s with
      | .miss => .miss 2
      | .unknown => .unknown
      | .form r => match readFields r s bs with
        | none => .short
        | some f => .instr (r.build f) r.length := by
  cases m <;> first | exact absurd rfl hb | exact absurd rfl hp | (simp only [decodeWith, h] <;> rfl)

end Sys2Proof
end

