-- ==== Sys2Proof/Laws/PerInstr.lean ====
section
/-! SUPPORT. Laws of every instruction, one lemma a constructor: `Encoded`, its row and its fields (30_encoding.md R120 to R128);
`Executed`, what it can change when it answers a next state (`Done`). -/

namespace Sys2Proof.Laws

open Sys2Proof.Machine

/-- An instruction with a sub-opcode of known layout is a row of its family's layout, made of the fields its code names. -/
def Encoded.Statement (i : Instr) : Prop := i ≠ .play → i ≠ .brk → i.code.family ≠ .play ∧ i.code.family ≠ .brk ∧ i.HasRow

/-- When the instruction answers a next state, it has done what its family may do. -/
def Executed.Statement (i : Instr) : Prop := ∀ s t, exec i s = .next t → Done i.code.family s t

namespace Encoded

-- AND
theorem andRR8 (a b : RegIx) : Statement (.andRR8 a b) := fun _ _ => ⟨nofun, nofun, _, rfl, rfl, rfl, .nil⟩
theorem andRR16 (a b : RegIx) : Statement (.andRR16 a b) := fun _ _ => ⟨nofun, nofun, _, rfl, rfl, rfl, .nil⟩
theorem andRR24 (a b : RegIx) : Statement (.andRR24 a b) := fun _ _ => ⟨nofun, nofun, _, rfl, rfl, rfl, .nil⟩
theorem andRR32 (a b : RegIx) : Statement (.andRR32 a b) := fun _ _ => ⟨nofun, nofun, _, rfl, rfl, rfl, .nil⟩
theorem andRI8 (a : RegIx) (imm : BitVec 8) : Statement (.andRI8 a imm) := fun _ _ => ⟨nofun, nofun, _, rfl, congrArg (Instr.andRI8 a) (Fields.imm_zero _ _ _ _ _ _ imm _), rfl, .cons (BitVec.isLt _) .nil⟩
theorem andRI16 (a : RegIx) (imm : BitVec 16) : Statement (.andRI16 a imm) := fun _ _ => ⟨nofun, nofun, _, rfl, congrArg (Instr.andRI16 a) (Fields.imm_zero _ _ _ _ _ _ imm _), rfl, .cons (BitVec.isLt _) .nil⟩
theorem andRI24 (a : RegIx) (imm : BitVec 24) : Statement (.andRI24 a imm) := fun _ _ => ⟨nofun, nofun, _, rfl, congrArg (Instr.andRI24 a) (Fields.imm_zero _ _ _ _ _ _ imm _), rfl, .cons (BitVec.isLt _) .nil⟩
theorem andRI32 (a : RegIx) (imm : BitVec 32) : Statement (.andRI32 a imm) := fun _ _ => ⟨nofun, nofun, _, rfl, congrArg (Instr.andRI32 a) (Fields.imm_zero _ _ _ _ _ _ imm _), rfl, .cons (BitVec.isLt _) .nil⟩
theorem andRMr8 (a b : RegIx) : Statement (.andRMr8 a b) := fun _ _ => ⟨nofun, nofun, _, rfl, rfl, rfl, .nil⟩
theorem andRMr16 (a b : RegIx) : Statement (.andRMr16 a b) := fun _ _ => ⟨nofun, nofun, _, rfl, rfl, rfl, .nil⟩
theorem andRMr24 (a b : RegIx) : Statement (.andRMr24 a b) := fun _ _ => ⟨nofun, nofun, _, rfl, rfl, rfl, .nil⟩
theorem andRMr32 (a b : RegIx) : Statement (.andRMr32 a b) := fun _ _ => ⟨nofun, nofun, _, rfl, rfl, rfl, .nil⟩
theorem andRMa8 (a : RegIx) (addr : Addr) : Statement (.andRMa8 a addr) := fun _ _ => ⟨nofun, nofun, _, rfl, congrArg (Instr.andRMa8 a) (Fields.imm_zero _ _ _ _ _ _ addr _), rfl, .cons (BitVec.isLt _) .nil⟩
theorem andRMa16 (a : RegIx) (addr : Addr) : Statement (.andRMa16 a addr) := fun _ _ => ⟨nofun, nofun, _, rfl, congrArg (Instr.andRMa16 a) (Fields.imm_zero _ _ _ _ _ _ addr _), rfl, .cons (BitVec.isLt _) .nil⟩
theorem andRMa24 (a : RegIx) (addr : Addr) : Statement (.andRMa24 a addr) := fun _ _ => ⟨nofun, nofun, _, rfl, congrArg (Instr.andRMa24 a) (Fields.imm_zero _ _ _ _ _ _ addr _), rfl, .cons (BitVec.isLt _) .nil⟩
theorem andRMa32 (a : RegIx) (addr : Addr) : Statement (.andRMa32 a addr) := fun _ _ => ⟨nofun, nofun, _, rfl, congrArg (Instr.andRMa32 a) (Fields.imm_zero _ _ _ _ _ _ addr _), rfl, .cons (BitVec.isLt _) .nil⟩
theorem andMrR8 (a b : RegIx) : Statement (.andMrR8 a b) := fun _ _ => ⟨nofun, nofun, _, rfl, rfl, rfl, .nil⟩
theorem andMrR16 (a b : RegIx) : Statement (.andMrR16 a b) := fun _ _ => ⟨nofun, nofun, _, rfl, rfl, rfl, .nil⟩
theorem andMrR24 (a b : RegIx) : Statement (.andMrR24 a b) := fun _ _ => ⟨nofun, nofun, _, rfl, rfl, rfl, .nil⟩
theorem andMrR32 (a b : RegIx) : Statement (.andMrR32 a b) := fun _ _ => ⟨nofun, nofun, _, rfl, rfl, rfl, .nil⟩
theorem andMaR8 (addr : Addr) (a : RegIx) : Statement (.andMaR8 addr a) := fun _ _ => ⟨nofun, nofun, _, rfl, congrArg (fun x => Instr.andMaR8 x a) (Fields.imm_zero _ _ _ _ _ _ addr _), rfl, .cons (BitVec.isLt _) .nil⟩
theorem andMaR16 (addr : Addr) (a : RegIx) : Statement (.andMaR16 addr a) := fun _ _ => ⟨nofun, nofun, _, rfl, congrArg (fun x => Instr.andMaR16 x a) (Fields.imm_zero _ _ _ _ _ _ addr _), rfl, .cons (BitVec.isLt _) .nil⟩
theorem andMaR24 (addr : Addr) (a : RegIx) : Statement (.andMaR24 addr a) := fun _ _ => ⟨nofun, nofun, _, rfl, congrArg (fun x => Instr.andMaR24 x a) (Fields.imm_zero _ _ _ _ _ _ addr _), rfl, .cons (BitVec.isLt _) .nil⟩
theorem andMaR32 (addr : Addr) (a : RegIx) : Statement (.andMaR32 addr a) := fun _ _ => ⟨nofun, nofun, _, rfl, congrArg (fun x => Instr.andMaR32 x a) (Fields.imm_zero _ _ _ _ _ _ addr _), rfl, .cons (BitVec.isLt _) .nil⟩
theorem andMrI8 (a : RegIx) (imm : BitVec 8) : Statement (.andMrI8 a imm) := fun _ _ => ⟨nofun, nofun, _, rfl, congrArg (Instr.andMrI8 a) (Fields.imm_zero _ _ _ _ _ _ imm _), rfl, .cons (BitVec.isLt _) .nil⟩
theorem andMrI16 (a : RegIx) (imm : BitVec 16) : Statement (.andMrI16 a imm) := fun _ _ => ⟨nofun, nofun, _, rfl, congrArg (Instr.andMrI16 a) (Fields.imm_zero _ _ _ _ _ _ imm _), rfl, .cons (BitVec.isLt _) .nil⟩
theorem andMrI24 (a : RegIx) (imm : BitVec 24) : Statement (.andMrI24 a imm) := fun _ _ => ⟨nofun, nofun, _, rfl, congrArg (Instr.andMrI24 a) (Fields.imm_zero _ _ _ _ _ _ imm _), rfl, .cons (BitVec.isLt _) .nil⟩
theorem andMrI32 (a : RegIx) (imm : BitVec 32) : Statement (.andMrI32 a imm) := fun _ _ => ⟨nofun, nofun, _, rfl, congrArg (Instr.andMrI32 a) (Fields.imm_zero _ _ _ _ _ _ imm _), rfl, .cons (BitVec.isLt _) .nil⟩
theorem andMaI8 (addr : Addr) (imm : BitVec 8) : Statement (.andMaI8 addr imm) := fun _ _ => ⟨nofun, nofun, _, rfl, congrArg₂ (fun x y => Instr.andMaI8 x y) (Fields.imm_zero _ _ _ _ _ _ addr _) (Fields.imm_one _ _ _ _ _ _ _ imm _), rfl, .cons (BitVec.isLt _) (.cons (BitVec.isLt _) .nil)⟩
theorem andMaI16 (addr : Addr) (imm : BitVec 16) : Statement (.andMaI16 addr imm) := fun _ _ => ⟨nofun, nofun, _, rfl, congrArg₂ (fun x y => Instr.andMaI16 x y) (Fields.imm_zero _ _ _ _ _ _ addr _) (Fields.imm_one _ _ _ _ _ _ _ imm _), rfl, .cons (BitVec.isLt _) (.cons (BitVec.isLt _) .nil)⟩
theorem andMaI24 (addr : Addr) (imm : BitVec 24) : Statement (.andMaI24 addr imm) := fun _ _ => ⟨nofun, nofun, _, rfl, congrArg₂ (fun x y => Instr.andMaI24 x y) (Fields.imm_zero _ _ _ _ _ _ addr _) (Fields.imm_one _ _ _ _ _ _ _ imm _), rfl, .cons (BitVec.isLt _) (.cons (BitVec.isLt _) .nil)⟩
theorem andMaI32 (addr : Addr) (imm : BitVec 32) : Statement (.andMaI32 addr imm) := fun _ _ => ⟨nofun, nofun, _, rfl, congrArg₂ (fun x y => Instr.andMaI32 x y) (Fields.imm_zero _ _ _ _ _ _ addr _) (Fields.imm_one _ _ _ _ _ _ _ imm _), rfl, .cons (BitVec.isLt _) (.cons (BitVec.isLt _) .nil)⟩
-- OR
theorem orRR8 (a b : RegIx) : Statement (.orRR8 a b) := fun _ _ => ⟨nofun, nofun, _, rfl, rfl, rfl, .nil⟩
theorem orRR16 (a b : RegIx) : Statement (.orRR16 a b) := fun _ _ => ⟨nofun, nofun, _, rfl, rfl, rfl, .nil⟩
theorem orRR24 (a b : RegIx) : Statement (.orRR24 a b) := fun _ _ => ⟨nofun, nofun, _, rfl, rfl, rfl, .nil⟩
theorem orRR32 (a b : RegIx) : Statement (.orRR32 a b) := fun _ _ => ⟨nofun, nofun, _, rfl, rfl, rfl, .nil⟩
theorem orRI8 (a : RegIx) (imm : BitVec 8) : Statement (.orRI8 a imm) := fun _ _ => ⟨nofun, nofun, _, rfl, congrArg (Instr.orRI8 a) (Fields.imm_zero _ _ _ _ _ _ imm _), rfl, .cons (BitVec.isLt _) .nil⟩
theorem orRI16 (a : RegIx) (imm : BitVec 16) : Statement (.orRI16 a imm) := fun _ _ => ⟨nofun, nofun, _, rfl, congrArg (Instr.orRI16 a) (Fields.imm_zero _ _ _ _ _ _ imm _), rfl, .cons (BitVec.isLt _) .nil⟩
theorem orRI24 (a : RegIx) (imm : BitVec 24) : Statement (.orRI24 a imm) := fun _ _ => ⟨nofun, nofun, _, rfl, congrArg (Instr.orRI24 a) (Fields.imm_zero _ _ _ _ _ _ imm _), rfl, .cons (BitVec.isLt _) .nil⟩
theorem orRI32 (a : RegIx) (imm : BitVec 32) : Statement (.orRI32 a imm) := fun _ _ => ⟨nofun, nofun, _, rfl, congrArg (Instr.orRI32 a) (Fields.imm_zero _ _ _ _ _ _ imm _), rfl, .cons (BitVec.isLt _) .nil⟩
theorem orRMr8 (a b : RegIx) : Statement (.orRMr8 a b) := fun _ _ => ⟨nofun, nofun, _, rfl, rfl, rfl, .nil⟩
theorem orRMr16 (a b : RegIx) : Statement (.orRMr16 a b) := fun _ _ => ⟨nofun, nofun, _, rfl, rfl, rfl, .nil⟩
theorem orRMr24 (a b : RegIx) : Statement (.orRMr24 a b) := fun _ _ => ⟨nofun, nofun, _, rfl, rfl, rfl, .nil⟩
theorem orRMr32 (a b : RegIx) : Statement (.orRMr32 a b) := fun _ _ => ⟨nofun, nofun, _, rfl, rfl, rfl, .nil⟩
theorem orRMa8 (a : RegIx) (addr : Addr) : Statement (.orRMa8 a addr) := fun _ _ => ⟨nofun, nofun, _, rfl, congrArg (Instr.orRMa8 a) (Fields.imm_zero _ _ _ _ _ _ addr _), rfl, .cons (BitVec.isLt _) .nil⟩
theorem orRMa16 (a : RegIx) (addr : Addr) : Statement (.orRMa16 a addr) := fun _ _ => ⟨nofun, nofun, _, rfl, congrArg (Instr.orRMa16 a) (Fields.imm_zero _ _ _ _ _ _ addr _), rfl, .cons (BitVec.isLt _) .nil⟩
theorem orRMa24 (a : RegIx) (addr : Addr) : Statement (.orRMa24 a addr) := fun _ _ => ⟨nofun, nofun, _, rfl, congrArg (Instr.orRMa24 a) (Fields.imm_zero _ _ _ _ _ _ addr _), rfl, .cons (BitVec.isLt _) .nil⟩
theorem orRMa32 (a : RegIx) (addr : Addr) : Statement (.orRMa32 a addr) := fun _ _ => ⟨nofun, nofun, _, rfl, congrArg (Instr.orRMa32 a) (Fields.imm_zero _ _ _ _ _ _ addr _), rfl, .cons (BitVec.isLt _) .nil⟩
theorem orMrR8 (a b : RegIx) : Statement (.orMrR8 a b) := fun _ _ => ⟨nofun, nofun, _, rfl, rfl, rfl, .nil⟩
theorem orMrR16 (a b : RegIx) : Statement (.orMrR16 a b) := fun _ _ => ⟨nofun, nofun, _, rfl, rfl, rfl, .nil⟩
theorem orMrR24 (a b : RegIx) : Statement (.orMrR24 a b) := fun _ _ => ⟨nofun, nofun, _, rfl, rfl, rfl, .nil⟩
theorem orMrR32 (a b : RegIx) : Statement (.orMrR32 a b) := fun _ _ => ⟨nofun, nofun, _, rfl, rfl, rfl, .nil⟩
theorem orMaR8 (addr : Addr) (a : RegIx) : Statement (.orMaR8 addr a) := fun _ _ => ⟨nofun, nofun, _, rfl, congrArg (fun x => Instr.orMaR8 x a) (Fields.imm_zero _ _ _ _ _ _ addr _), rfl, .cons (BitVec.isLt _) .nil⟩
theorem orMaR16 (addr : Addr) (a : RegIx) : Statement (.orMaR16 addr a) := fun _ _ => ⟨nofun, nofun, _, rfl, congrArg (fun x => Instr.orMaR16 x a) (Fields.imm_zero _ _ _ _ _ _ addr _), rfl, .cons (BitVec.isLt _) .nil⟩
theorem orMaR24 (addr : Addr) (a : RegIx) : Statement (.orMaR24 addr a) := fun _ _ => ⟨nofun, nofun, _, rfl, congrArg (fun x => Instr.orMaR24 x a) (Fields.imm_zero _ _ _ _ _ _ addr _), rfl, .cons (BitVec.isLt _) .nil⟩
theorem orMaR32 (addr : Addr) (a : RegIx) : Statement (.orMaR32 addr a) := fun _ _ => ⟨nofun, nofun, _, rfl, congrArg (fun x => Instr.orMaR32 x a) (Fields.imm_zero _ _ _ _ _ _ addr _), rfl, .cons (BitVec.isLt _) .nil⟩
theorem orMrI8 (a : RegIx) (imm : BitVec 8) : Statement (.orMrI8 a imm) := fun _ _ => ⟨nofun, nofun, _, rfl, congrArg (Instr.orMrI8 a) (Fields.imm_zero _ _ _ _ _ _ imm _), rfl, .cons (BitVec.isLt _) .nil⟩
theorem orMrI16 (a : RegIx) (imm : BitVec 16) : Statement (.orMrI16 a imm) := fun _ _ => ⟨nofun, nofun, _, rfl, congrArg (Instr.orMrI16 a) (Fields.imm_zero _ _ _ _ _ _ imm _), rfl, .cons (BitVec.isLt _) .nil⟩
theorem orMrI24 (a : RegIx) (imm : BitVec 24) : Statement (.orMrI24 a imm) := fun _ _ => ⟨nofun, nofun, _, rfl, congrArg (Instr.orMrI24 a) (Fields.imm_zero _ _ _ _ _ _ imm _), rfl, .cons (BitVec.isLt _) .nil⟩
theorem orMrI32 (a : RegIx) (imm : BitVec 32) : Statement (.orMrI32 a imm) := fun _ _ => ⟨nofun, nofun, _, rfl, congrArg (Instr.orMrI32 a) (Fields.imm_zero _ _ _ _ _ _ imm _), rfl, .cons (BitVec.isLt _) .nil⟩
theorem orMaI8 (addr : Addr) (imm : BitVec 8) : Statement (.orMaI8 addr imm) := fun _ _ => ⟨nofun, nofun, _, rfl, congrArg₂ (fun x y => Instr.orMaI8 x y) (Fields.imm_zero _ _ _ _ _ _ addr _) (Fields.imm_one _ _ _ _ _ _ _ imm _), rfl, .cons (BitVec.isLt _) (.cons (BitVec.isLt _) .nil)⟩
theorem orMaI16 (addr : Addr) (imm : BitVec 16) : Statement (.orMaI16 addr imm) := fun _ _ => ⟨nofun, nofun, _, rfl, congrArg₂ (fun x y => Instr.orMaI16 x y) (Fields.imm_zero _ _ _ _ _ _ addr _) (Fields.imm_one _ _ _ _ _ _ _ imm _), rfl, .cons (BitVec.isLt _) (.cons (BitVec.isLt _) .nil)⟩
theorem orMaI24 (addr : Addr) (imm : BitVec 24) : Statement (.orMaI24 addr imm) := fun _ _ => ⟨nofun, nofun, _, rfl, congrArg₂ (fun x y => Instr.orMaI24 x y) (Fields.imm_zero _ _ _ _ _ _ addr _) (Fields.imm_one _ _ _ _ _ _ _ imm _), rfl, .cons (BitVec.isLt _) (.cons (BitVec.isLt _) .nil)⟩
theorem orMaI32 (addr : Addr) (imm : BitVec 32) : Statement (.orMaI32 addr imm) := fun _ _ => ⟨nofun, nofun, _, rfl, congrArg₂ (fun x y => Instr.orMaI32 x y) (Fields.imm_zero _ _ _ _ _ _ addr _) (Fields.imm_one _ _ _ _ _ _ _ imm _), rfl, .cons (BitVec.isLt _) (.cons (BitVec.isLt _) .nil)⟩
-- XOR
theorem xorRR8 (a b : RegIx) : Statement (.xorRR8 a b) := fun _ _ => ⟨nofun, nofun, _, rfl, rfl, rfl, .nil⟩
theorem xorRR16 (a b : RegIx) : Statement (.xorRR16 a b) := fun _ _ => ⟨nofun, nofun, _, rfl, rfl, rfl, .nil⟩
theorem xorRR24 (a b : RegIx) : Statement (.xorRR24 a b) := fun _ _ => ⟨nofun, nofun, _, rfl, rfl, rfl, .nil⟩
theorem xorRR32 (a b : RegIx) : Statement (.xorRR32 a b) := fun _ _ => ⟨nofun, nofun, _, rfl, rfl, rfl, .nil⟩
theorem xorRI8 (a : RegIx) (imm : BitVec 8) : Statement (.xorRI8 a imm) := fun _ _ => ⟨nofun, nofun, _, rfl, congrArg (Instr.xorRI8 a) (Fields.imm_zero _ _ _ _ _ _ imm _), rfl, .cons (BitVec.isLt _) .nil⟩
theorem xorRI16 (a : RegIx) (imm : BitVec 16) : Statement (.xorRI16 a imm) := fun _ _ => ⟨nofun, nofun, _, rfl, congrArg (Instr.xorRI16 a) (Fields.imm_zero _ _ _ _ _ _ imm _), rfl, .cons (BitVec.isLt _) .nil⟩
theorem xorRI24 (a : RegIx) (imm : BitVec 24) : Statement (.xorRI24 a imm) := fun _ _ => ⟨nofun, nofun, _, rfl, congrArg (Instr.xorRI24 a) (Fields.imm_zero _ _ _ _ _ _ imm _), rfl, .cons (BitVec.isLt _) .nil⟩
theorem xorRI32 (a : RegIx) (imm : BitVec 32) : Statement (.xorRI32 a imm) := fun _ _ => ⟨nofun, nofun, _, rfl, congrArg (Instr.xorRI32 a) (Fields.imm_zero _ _ _ _ _ _ imm _), rfl, .cons (BitVec.isLt _) .nil⟩
theorem xorRMr8 (a b : RegIx) : Statement (.xorRMr8 a b) := fun _ _ => ⟨nofun, nofun, _, rfl, rfl, rfl, .nil⟩
theorem xorRMr16 (a b : RegIx) : Statement (.xorRMr16 a b) := fun _ _ => ⟨nofun, nofun, _, rfl, rfl, rfl, .nil⟩
theorem xorRMr24 (a b : RegIx) : Statement (.xorRMr24 a b) := fun _ _ => ⟨nofun, nofun, _, rfl, rfl, rfl, .nil⟩
theorem xorRMr32 (a b : RegIx) : Statement (.xorRMr32 a b) := fun _ _ => ⟨nofun, nofun, _, rfl, rfl, rfl, .nil⟩
theorem xorRMa8 (a : RegIx) (addr : Addr) : Statement (.xorRMa8 a addr) := fun _ _ => ⟨nofun, nofun, _, rfl, congrArg (Instr.xorRMa8 a) (Fields.imm_zero _ _ _ _ _ _ addr _), rfl, .cons (BitVec.isLt _) .nil⟩
theorem xorRMa16 (a : RegIx) (addr : Addr) : Statement (.xorRMa16 a addr) := fun _ _ => ⟨nofun, nofun, _, rfl, congrArg (Instr.xorRMa16 a) (Fields.imm_zero _ _ _ _ _ _ addr _), rfl, .cons (BitVec.isLt _) .nil⟩
theorem xorRMa24 (a : RegIx) (addr : Addr) : Statement (.xorRMa24 a addr) := fun _ _ => ⟨nofun, nofun, _, rfl, congrArg (Instr.xorRMa24 a) (Fields.imm_zero _ _ _ _ _ _ addr _), rfl, .cons (BitVec.isLt _) .nil⟩
theorem xorRMa32 (a : RegIx) (addr : Addr) : Statement (.xorRMa32 a addr) := fun _ _ => ⟨nofun, nofun, _, rfl, congrArg (Instr.xorRMa32 a) (Fields.imm_zero _ _ _ _ _ _ addr _), rfl, .cons (BitVec.isLt _) .nil⟩
theorem xorMrR8 (a b : RegIx) : Statement (.xorMrR8 a b) := fun _ _ => ⟨nofun, nofun, _, rfl, rfl, rfl, .nil⟩
theorem xorMrR16 (a b : RegIx) : Statement (.xorMrR16 a b) := fun _ _ => ⟨nofun, nofun, _, rfl, rfl, rfl, .nil⟩
theorem xorMrR24 (a b : RegIx) : Statement (.xorMrR24 a b) := fun _ _ => ⟨nofun, nofun, _, rfl, rfl, rfl, .nil⟩
theorem xorMrR32 (a b : RegIx) : Statement (.xorMrR32 a b) := fun _ _ => ⟨nofun, nofun, _, rfl, rfl, rfl, .nil⟩
theorem xorMaR8 (addr : Addr) (a : RegIx) : Statement (.xorMaR8 addr a) := fun _ _ => ⟨nofun, nofun, _, rfl, congrArg (fun x => Instr.xorMaR8 x a) (Fields.imm_zero _ _ _ _ _ _ addr _), rfl, .cons (BitVec.isLt _) .nil⟩
theorem xorMaR16 (addr : Addr) (a : RegIx) : Statement (.xorMaR16 addr a) := fun _ _ => ⟨nofun, nofun, _, rfl, congrArg (fun x => Instr.xorMaR16 x a) (Fields.imm_zero _ _ _ _ _ _ addr _), rfl, .cons (BitVec.isLt _) .nil⟩
theorem xorMaR24 (addr : Addr) (a : RegIx) : Statement (.xorMaR24 addr a) := fun _ _ => ⟨nofun, nofun, _, rfl, congrArg (fun x => Instr.xorMaR24 x a) (Fields.imm_zero _ _ _ _ _ _ addr _), rfl, .cons (BitVec.isLt _) .nil⟩
theorem xorMaR32 (addr : Addr) (a : RegIx) : Statement (.xorMaR32 addr a) := fun _ _ => ⟨nofun, nofun, _, rfl, congrArg (fun x => Instr.xorMaR32 x a) (Fields.imm_zero _ _ _ _ _ _ addr _), rfl, .cons (BitVec.isLt _) .nil⟩
theorem xorMrI8 (a : RegIx) (imm : BitVec 8) : Statement (.xorMrI8 a imm) := fun _ _ => ⟨nofun, nofun, _, rfl, congrArg (Instr.xorMrI8 a) (Fields.imm_zero _ _ _ _ _ _ imm _), rfl, .cons (BitVec.isLt _) .nil⟩
theorem xorMrI16 (a : RegIx) (imm : BitVec 16) : Statement (.xorMrI16 a imm) := fun _ _ => ⟨nofun, nofun, _, rfl, congrArg (Instr.xorMrI16 a) (Fields.imm_zero _ _ _ _ _ _ imm _), rfl, .cons (BitVec.isLt _) .nil⟩
theorem xorMrI24 (a : RegIx) (imm : BitVec 24) : Statement (.xorMrI24 a imm) := fun _ _ => ⟨nofun, nofun, _, rfl, congrArg (Instr.xorMrI24 a) (Fields.imm_zero _ _ _ _ _ _ imm _), rfl, .cons (BitVec.isLt _) .nil⟩
theorem xorMrI32 (a : RegIx) (imm : BitVec 32) : Statement (.xorMrI32 a imm) := fun _ _ => ⟨nofun, nofun, _, rfl, congrArg (Instr.xorMrI32 a) (Fields.imm_zero _ _ _ _ _ _ imm _), rfl, .cons (BitVec.isLt _) .nil⟩
theorem xorMaI8 (addr : Addr) (imm : BitVec 8) : Statement (.xorMaI8 addr imm) := fun _ _ => ⟨nofun, nofun, _, rfl, congrArg₂ (fun x y => Instr.xorMaI8 x y) (Fields.imm_zero _ _ _ _ _ _ addr _) (Fields.imm_one _ _ _ _ _ _ _ imm _), rfl, .cons (BitVec.isLt _) (.cons (BitVec.isLt _) .nil)⟩
theorem xorMaI16 (addr : Addr) (imm : BitVec 16) : Statement (.xorMaI16 addr imm) := fun _ _ => ⟨nofun, nofun, _, rfl, congrArg₂ (fun x y => Instr.xorMaI16 x y) (Fields.imm_zero _ _ _ _ _ _ addr _) (Fields.imm_one _ _ _ _ _ _ _ imm _), rfl, .cons (BitVec.isLt _) (.cons (BitVec.isLt _) .nil)⟩
theorem xorMaI24 (addr : Addr) (imm : BitVec 24) : Statement (.xorMaI24 addr imm) := fun _ _ => ⟨nofun, nofun, _, rfl, congrArg₂ (fun x y => Instr.xorMaI24 x y) (Fields.imm_zero _ _ _ _ _ _ addr _) (Fields.imm_one _ _ _ _ _ _ _ imm _), rfl, .cons (BitVec.isLt _) (.cons (BitVec.isLt _) .nil)⟩
theorem xorMaI32 (addr : Addr) (imm : BitVec 32) : Statement (.xorMaI32 addr imm) := fun _ _ => ⟨nofun, nofun, _, rfl, congrArg₂ (fun x y => Instr.xorMaI32 x y) (Fields.imm_zero _ _ _ _ _ _ addr _) (Fields.imm_one _ _ _ _ _ _ _ imm _), rfl, .cons (BitVec.isLt _) (.cons (BitVec.isLt _) .nil)⟩
-- NOR
theorem norRR8 (a b : RegIx) : Statement (.norRR8 a b) := fun _ _ => ⟨nofun, nofun, _, rfl, rfl, rfl, .nil⟩
theorem norRR16 (a b : RegIx) : Statement (.norRR16 a b) := fun _ _ => ⟨nofun, nofun, _, rfl, rfl, rfl, .nil⟩
theorem norRR24 (a b : RegIx) : Statement (.norRR24 a b) := fun _ _ => ⟨nofun, nofun, _, rfl, rfl, rfl, .nil⟩
theorem norRR32 (a b : RegIx) : Statement (.norRR32 a b) := fun _ _ => ⟨nofun, nofun, _, rfl, rfl, rfl, .nil⟩
theorem norRI8 (a : RegIx) (imm : BitVec 8) : Statement (.norRI8 a imm) := fun _ _ => ⟨nofun, nofun, _, rfl, congrArg (Instr.norRI8 a) (Fields.imm_zero _ _ _ _ _ _ imm _), rfl, .cons (BitVec.isLt _) .nil⟩
theorem norRI16 (a : RegIx) (imm : BitVec 16) : Statement (.norRI16 a imm) := fun _ _ => ⟨nofun, nofun, _, rfl, congrArg (Instr.norRI16 a) (Fields.imm_zero _ _ _ _ _ _ imm _), rfl, .cons (BitVec.isLt _) .nil⟩
theorem norRI24 (a : RegIx) (imm : BitVec 24) : Statement (.norRI24 a imm) := fun _ _ => ⟨nofun, nofun, _, rfl, congrArg (Instr.norRI24 a) (Fields.imm_zero _ _ _ _ _ _ imm _), rfl, .cons (BitVec.isLt _) .nil⟩
theorem norRI32 (a : RegIx) (imm : BitVec 32) : Statement (.norRI32 a imm) := fun _ _ => ⟨nofun, nofun, _, rfl, congrArg (Instr.norRI32 a) (Fields.imm_zero _ _ _ _ _ _ imm _), rfl, .cons (BitVec.isLt _) .nil⟩
theorem norRMr8 (a b : RegIx) : Statement (.norRMr8 a b) := fun _ _ => ⟨nofun, nofun, _, rfl, rfl, rfl, .nil⟩
theorem norRMr16 (a b : RegIx) : Statement (.norRMr16 a b) := fun _ _ => ⟨nofun, nofun, _, rfl, rfl, rfl, .nil⟩
theorem norRMr24 (a b : RegIx) : Statement (.norRMr24 a b) := fun _ _ => ⟨nofun, nofun, _, rfl, rfl, rfl, .nil⟩
theorem norRMr32 (a b : RegIx) : Statement (.norRMr32 a b) := fun _ _ => ⟨nofun, nofun, _, rfl, rfl, rfl, .nil⟩
theorem norRMa8 (a : RegIx) (addr : Addr) : Statement (.norRMa8 a addr) := fun _ _ => ⟨nofun, nofun, _, rfl, congrArg (Instr.norRMa8 a) (Fields.imm_zero _ _ _ _ _ _ addr _), rfl, .cons (BitVec.isLt _) .nil⟩
theorem norRMa16 (a : RegIx) (addr : Addr) : Statement (.norRMa16 a addr) := fun _ _ => ⟨nofun, nofun, _, rfl, congrArg (Instr.norRMa16 a) (Fields.imm_zero _ _ _ _ _ _ addr _), rfl, .cons (BitVec.isLt _) .nil⟩
theorem norRMa24 (a : RegIx) (addr : Addr) : Statement (.norRMa24 a addr) := fun _ _ => ⟨nofun, nofun, _, rfl, congrArg (Instr.norRMa24 a) (Fields.imm_zero _ _ _ _ _ _ addr _), rfl, .cons (BitVec.isLt _) .nil⟩
theorem norRMa32 (a : RegIx) (addr : Addr) : Statement (.norRMa32 a addr) := fun _ _ => ⟨nofun, nofun, _, rfl, congrArg (Instr.norRMa32 a) (Fields.imm_zero _ _ _ _ _ _ addr _), rfl, .cons (BitVec.isLt _) .nil⟩
theorem norMrR8 (a b : RegIx) : Statement (.norMrR8 a b) := fun _ _ => ⟨nofun, nofun, _, rfl, rfl, rfl, .nil⟩
theorem norMrR16 (a b : RegIx) : Statement (.norMrR16 a b) := fun _ _ => ⟨nofun, nofun, _, rfl, rfl, rfl, .nil⟩
theorem norMrR24 (a b : RegIx) : Statement (.norMrR24 a b) := fun _ _ => ⟨nofun, nofun, _, rfl, rfl, rfl, .nil⟩
theorem norMrR32 (a b : RegIx) : Statement (.norMrR32 a b) := fun _ _ => ⟨nofun, nofun, _, rfl, rfl, rfl, .nil⟩
theorem norMaR8 (addr : Addr) (a : RegIx) : Statement (.norMaR8 addr a) := fun _ _ => ⟨nofun, nofun, _, rfl, congrArg (fun x => Instr.norMaR8 x a) (Fields.imm_zero _ _ _ _ _ _ addr _), rfl, .cons (BitVec.isLt _) .nil⟩
theorem norMaR16 (addr : Addr) (a : RegIx) : Statement (.norMaR16 addr a) := fun _ _ => ⟨nofun, nofun, _, rfl, congrArg (fun x => Instr.norMaR16 x a) (Fields.imm_zero _ _ _ _ _ _ addr _), rfl, .cons (BitVec.isLt _) .nil⟩
theorem norMaR24 (addr : Addr) (a : RegIx) : Statement (.norMaR24 addr a) := fun _ _ => ⟨nofun, nofun, _, rfl, congrArg (fun x => Instr.norMaR24 x a) (Fields.imm_zero _ _ _ _ _ _ addr _), rfl, .cons (BitVec.isLt _) .nil⟩
theorem norMaR32 (addr : Addr) (a : RegIx) : Statement (.norMaR32 addr a) := fun _ _ => ⟨nofun, nofun, _, rfl, congrArg (fun x => Instr.norMaR32 x a) (Fields.imm_zero _ _ _ _ _ _ addr _), rfl, .cons (BitVec.isLt _) .nil⟩
theorem norMrI8 (a : RegIx) (imm : BitVec 8) : Statement (.norMrI8 a imm) := fun _ _ => ⟨nofun, nofun, _, rfl, congrArg (Instr.norMrI8 a) (Fields.imm_zero _ _ _ _ _ _ imm _), rfl, .cons (BitVec.isLt _) .nil⟩
theorem norMrI16 (a : RegIx) (imm : BitVec 16) : Statement (.norMrI16 a imm) := fun _ _ => ⟨nofun, nofun, _, rfl, congrArg (Instr.norMrI16 a) (Fields.imm_zero _ _ _ _ _ _ imm _), rfl, .cons (BitVec.isLt _) .nil⟩
theorem norMrI24 (a : RegIx) (imm : BitVec 24) : Statement (.norMrI24 a imm) := fun _ _ => ⟨nofun, nofun, _, rfl, congrArg (Instr.norMrI24 a) (Fields.imm_zero _ _ _ _ _ _ imm _), rfl, .cons (BitVec.isLt _) .nil⟩
theorem norMrI32 (a : RegIx) (imm : BitVec 32) : Statement (.norMrI32 a imm) := fun _ _ => ⟨nofun, nofun, _, rfl, congrArg (Instr.norMrI32 a) (Fields.imm_zero _ _ _ _ _ _ imm _), rfl, .cons (BitVec.isLt _) .nil⟩
theorem norMaI8 (addr : Addr) (imm : BitVec 8) : Statement (.norMaI8 addr imm) := fun _ _ => ⟨nofun, nofun, _, rfl, congrArg₂ (fun x y => Instr.norMaI8 x y) (Fields.imm_zero _ _ _ _ _ _ addr _) (Fields.imm_one _ _ _ _ _ _ _ imm _), rfl, .cons (BitVec.isLt _) (.cons (BitVec.isLt _) .nil)⟩
theorem norMaI16 (addr : Addr) (imm : BitVec 16) : Statement (.norMaI16 addr imm) := fun _ _ => ⟨nofun, nofun, _, rfl, congrArg₂ (fun x y => Instr.norMaI16 x y) (Fields.imm_zero _ _ _ _ _ _ addr _) (Fields.imm_one _ _ _ _ _ _ _ imm _), rfl, .cons (BitVec.isLt _) (.cons (BitVec.isLt _) .nil)⟩
theorem norMaI24 (addr : Addr) (imm : BitVec 24) : Statement (.norMaI24 addr imm) := fun _ _ => ⟨nofun, nofun, _, rfl, congrArg₂ (fun x y => Instr.norMaI24 x y) (Fields.imm_zero _ _ _ _ _ _ addr _) (Fields.imm_one _ _ _ _ _ _ _ imm _), rfl, .cons (BitVec.isLt _) (.cons (BitVec.isLt _) .nil)⟩
theorem norMaI32 (addr : Addr) (imm : BitVec 32) : Statement (.norMaI32 addr imm) := fun _ _ => ⟨nofun, nofun, _, rfl, congrArg₂ (fun x y => Instr.norMaI32 x y) (Fields.imm_zero _ _ _ _ _ _ addr _) (Fields.imm_one _ _ _ _ _ _ _ imm _), rfl, .cons (BitVec.isLt _) (.cons (BitVec.isLt _) .nil)⟩
-- MIN
theorem minRR8 (a b : RegIx) : Statement (.minRR8 a b) := fun _ _ => ⟨nofun, nofun, _, rfl, rfl, rfl, .nil⟩
theorem minRR16 (a b : RegIx) : Statement (.minRR16 a b) := fun _ _ => ⟨nofun, nofun, _, rfl, rfl, rfl, .nil⟩
theorem minRR24 (a b : RegIx) : Statement (.minRR24 a b) := fun _ _ => ⟨nofun, nofun, _, rfl, rfl, rfl, .nil⟩
theorem minRR32 (a b : RegIx) : Statement (.minRR32 a b) := fun _ _ => ⟨nofun, nofun, _, rfl, rfl, rfl, .nil⟩
theorem minRI8 (a : RegIx) (imm : BitVec 8) : Statement (.minRI8 a imm) := fun _ _ => ⟨nofun, nofun, _, rfl, congrArg (Instr.minRI8 a) (Fields.imm_zero _ _ _ _ _ _ imm _), rfl, .cons (BitVec.isLt _) .nil⟩
theorem minRI16 (a : RegIx) (imm : BitVec 16) : Statement (.minRI16 a imm) := fun _ _ => ⟨nofun, nofun, _, rfl, congrArg (Instr.minRI16 a) (Fields.imm_zero _ _ _ _ _ _ imm _), rfl, .cons (BitVec.isLt _) .nil⟩
theorem minRI24 (a : RegIx) (imm : BitVec 24) : Statement (.minRI24 a imm) := fun _ _ => ⟨nofun, nofun, _, rfl, congrArg (Instr.minRI24 a) (Fields.imm_zero _ _ _ _ _ _ imm _), rfl, .cons (BitVec.isLt _) .nil⟩
theorem minRI32 (a : RegIx) (imm : BitVec 32) : Statement (.minRI32 a imm) := fun _ _ => ⟨nofun, nofun, _, rfl, congrArg (Instr.minRI32 a) (Fields.imm_zero _ _ _ _ _ _ imm _), rfl, .cons (BitVec.isLt _) .nil⟩
theorem minRMr8 (a b : RegIx) : Statement (.minRMr8 a b) := fun _ _ => ⟨nofun, nofun, _, rfl, rfl, rfl, .nil⟩
theorem minRMr16 (a b : RegIx) : Statement (.minRMr16 a b) := fun _ _ => ⟨nofun, nofun, _, rfl, rfl, rfl, .nil⟩
theorem minRMr24 (a b : RegIx) : Statement (.minRMr24 a b) := fun _ _ => ⟨nofun, nofun, _, rfl, rfl, rfl, .nil⟩
theorem minRMr32 (a b : RegIx) : Statement (.minRMr32 a b) := fun _ _ => ⟨nofun, nofun, _, rfl, rfl, rfl, .nil⟩
theorem minRMa8 (a : RegIx) (addr : Addr) : Statement (.minRMa8 a addr) := fun _ _ => ⟨nofun, nofun, _, rfl, congrArg (Instr.minRMa8 a) (Fields.imm_zero _ _ _ _ _ _ addr _), rfl, .cons (BitVec.isLt _) .nil⟩
theorem minRMa16 (a : RegIx) (addr : Addr) : Statement (.minRMa16 a addr) := fun _ _ => ⟨nofun, nofun, _, rfl, congrArg (Instr.minRMa16 a) (Fields.imm_zero _ _ _ _ _ _ addr _), rfl, .cons (BitVec.isLt _) .nil⟩
theorem minRMa24 (a : RegIx) (addr : Addr) : Statement (.minRMa24 a addr) := fun _ _ => ⟨nofun, nofun, _, rfl, congrArg (Instr.minRMa24 a) (Fields.imm_zero _ _ _ _ _ _ addr _), rfl, .cons (BitVec.isLt _) .nil⟩
theorem minRMa32 (a : RegIx) (addr : Addr) : Statement (.minRMa32 a addr) := fun _ _ => ⟨nofun, nofun, _, rfl, congrArg (Instr.minRMa32 a) (Fields.imm_zero _ _ _ _ _ _ addr _), rfl, .cons (BitVec.isLt _) .nil⟩
theorem minMrR8 (a b : RegIx) : Statement (.minMrR8 a b) := fun _ _ => ⟨nofun, nofun, _, rfl, rfl, rfl, .nil⟩
theorem minMrR16 (a b : RegIx) : Statement (.minMrR16 a b) := fun _ _ => ⟨nofun, nofun, _, rfl, rfl, rfl, .nil⟩
theorem minMrR24 (a b : RegIx) : Statement (.minMrR24 a b) := fun _ _ => ⟨nofun, nofun, _, rfl, rfl, rfl, .nil⟩
theorem minMrR32 (a b : RegIx) : Statement (.minMrR32 a b) := fun _ _ => ⟨nofun, nofun, _, rfl, rfl, rfl, .nil⟩
theorem minMaR8 (addr : Addr) (a : RegIx) : Statement (.minMaR8 addr a) := fun _ _ => ⟨nofun, nofun, _, rfl, congrArg (fun x => Instr.minMaR8 x a) (Fields.imm_zero _ _ _ _ _ _ addr _), rfl, .cons (BitVec.isLt _) .nil⟩
theorem minMaR16 (addr : Addr) (a : RegIx) : Statement (.minMaR16 addr a) := fun _ _ => ⟨nofun, nofun, _, rfl, congrArg (fun x => Instr.minMaR16 x a) (Fields.imm_zero _ _ _ _ _ _ addr _), rfl, .cons (BitVec.isLt _) .nil⟩
theorem minMaR24 (addr : Addr) (a : RegIx) : Statement (.minMaR24 addr a) := fun _ _ => ⟨nofun, nofun, _, rfl, congrArg (fun x => Instr.minMaR24 x a) (Fields.imm_zero _ _ _ _ _ _ addr _), rfl, .cons (BitVec.isLt _) .nil⟩
theorem minMaR32 (addr : Addr) (a : RegIx) : Statement (.minMaR32 addr a) := fun _ _ => ⟨nofun, nofun, _, rfl, congrArg (fun x => Instr.minMaR32 x a) (Fields.imm_zero _ _ _ _ _ _ addr _), rfl, .cons (BitVec.isLt _) .nil⟩
theorem minMrI8 (a : RegIx) (imm : BitVec 8) : Statement (.minMrI8 a imm) := fun _ _ => ⟨nofun, nofun, _, rfl, congrArg (Instr.minMrI8 a) (Fields.imm_zero _ _ _ _ _ _ imm _), rfl, .cons (BitVec.isLt _) .nil⟩
theorem minMrI16 (a : RegIx) (imm : BitVec 16) : Statement (.minMrI16 a imm) := fun _ _ => ⟨nofun, nofun, _, rfl, congrArg (Instr.minMrI16 a) (Fields.imm_zero _ _ _ _ _ _ imm _), rfl, .cons (BitVec.isLt _) .nil⟩
theorem minMrI24 (a : RegIx) (imm : BitVec 24) : Statement (.minMrI24 a imm) := fun _ _ => ⟨nofun, nofun, _, rfl, congrArg (Instr.minMrI24 a) (Fields.imm_zero _ _ _ _ _ _ imm _), rfl, .cons (BitVec.isLt _) .nil⟩
theorem minMrI32 (a : RegIx) (imm : BitVec 32) : Statement (.minMrI32 a imm) := fun _ _ => ⟨nofun, nofun, _, rfl, congrArg (Instr.minMrI32 a) (Fields.imm_zero _ _ _ _ _ _ imm _), rfl, .cons (BitVec.isLt _) .nil⟩
theorem minMaI8 (addr : Addr) (imm : BitVec 8) : Statement (.minMaI8 addr imm) := fun _ _ => ⟨nofun, nofun, _, rfl, congrArg₂ (fun x y => Instr.minMaI8 x y) (Fields.imm_zero _ _ _ _ _ _ addr _) (Fields.imm_one _ _ _ _ _ _ _ imm _), rfl, .cons (BitVec.isLt _) (.cons (BitVec.isLt _) .nil)⟩
theorem minMaI16 (addr : Addr) (imm : BitVec 16) : Statement (.minMaI16 addr imm) := fun _ _ => ⟨nofun, nofun, _, rfl, congrArg₂ (fun x y => Instr.minMaI16 x y) (Fields.imm_zero _ _ _ _ _ _ addr _) (Fields.imm_one _ _ _ _ _ _ _ imm _), rfl, .cons (BitVec.isLt _) (.cons (BitVec.isLt _) .nil)⟩
theorem minMaI24 (addr : Addr) (imm : BitVec 24) : Statement (.minMaI24 addr imm) := fun _ _ => ⟨nofun, nofun, _, rfl, congrArg₂ (fun x y => Instr.minMaI24 x y) (Fields.imm_zero _ _ _ _ _ _ addr _) (Fields.imm_one _ _ _ _ _ _ _ imm _), rfl, .cons (BitVec.isLt _) (.cons (BitVec.isLt _) .nil)⟩
theorem minMaI32 (addr : Addr) (imm : BitVec 32) : Statement (.minMaI32 addr imm) := fun _ _ => ⟨nofun, nofun, _, rfl, congrArg₂ (fun x y => Instr.minMaI32 x y) (Fields.imm_zero _ _ _ _ _ _ addr _) (Fields.imm_one _ _ _ _ _ _ _ imm _), rfl, .cons (BitVec.isLt _) (.cons (BitVec.isLt _) .nil)⟩
theorem minRF8 (a : RegIx) (fb : FloatIx) : Statement (.minRF8 a fb) := fun _ _ => ⟨nofun, nofun, _, rfl, congrArg (Instr.minRF8 a) (widen_narrow fb), rfl, .nil⟩
theorem minRF16 (a : RegIx) (fb : FloatIx) : Statement (.minRF16 a fb) := fun _ _ => ⟨nofun, nofun, _, rfl, congrArg (Instr.minRF16 a) (widen_narrow fb), rfl, .nil⟩
theorem minRF24 (a : RegIx) (fb : FloatIx) : Statement (.minRF24 a fb) := fun _ _ => ⟨nofun, nofun, _, rfl, congrArg (Instr.minRF24 a) (widen_narrow fb), rfl, .nil⟩
theorem minRF32 (a : RegIx) (fb : FloatIx) : Statement (.minRF32 a fb) := fun _ _ => ⟨nofun, nofun, _, rfl, congrArg (Instr.minRF32 a) (widen_narrow fb), rfl, .nil⟩
theorem minFF (fa fb : FloatIx) : Statement (.minFF fa fb) := fun _ _ => ⟨nofun, nofun, _, rfl, rfl, rfl, .nil⟩
-- MAX
theorem maxRR8 (a b : RegIx) : Statement (.maxRR8 a b) := fun _ _ => ⟨nofun, nofun, _, rfl, rfl, rfl, .nil⟩
theorem maxRR16 (a b : RegIx) : Statement (.maxRR16 a b) := fun _ _ => ⟨nofun, nofun, _, rfl, rfl, rfl, .nil⟩
theorem maxRR24 (a b : RegIx) : Statement (.maxRR24 a b) := fun _ _ => ⟨nofun, nofun, _, rfl, rfl, rfl, .nil⟩
theorem maxRR32 (a b : RegIx) : Statement (.maxRR32 a b) := fun _ _ => ⟨nofun, nofun, _, rfl, rfl, rfl, .nil⟩
theorem maxRI8 (a : RegIx) (imm : BitVec 8) : Statement (.maxRI8 a imm) := fun _ _ => ⟨nofun, nofun, _, rfl, congrArg (Instr.maxRI8 a) (Fields.imm_zero _ _ _ _ _ _ imm _), rfl, .cons (BitVec.isLt _) .nil⟩
theorem maxRI16 (a : RegIx) (imm : BitVec 16) : Statement (.maxRI16 a imm) := fun _ _ => ⟨nofun, nofun, _, rfl, congrArg (Instr.maxRI16 a) (Fields.imm_zero _ _ _ _ _ _ imm _), rfl, .cons (BitVec.isLt _) .nil⟩
theorem maxRI24 (a : RegIx) (imm : BitVec 24) : Statement (.maxRI24 a imm) := fun _ _ => ⟨nofun, nofun, _, rfl, congrArg (Instr.maxRI24 a) (Fields.imm_zero _ _ _ _ _ _ imm _), rfl, .cons (BitVec.isLt _) .nil⟩
theorem maxRI32 (a : RegIx) (imm : BitVec 32) : Statement (.maxRI32 a imm) := fun _ _ => ⟨nofun, nofun, _, rfl, congrArg (Instr.maxRI32 a) (Fields.imm_zero _ _ _ _ _ _ imm _), rfl, .cons (BitVec.isLt _) .nil⟩
theorem maxRMr8 (a b : RegIx) : Statement (.maxRMr8 a b) := fun _ _ => ⟨nofun, nofun, _, rfl, rfl, rfl, .nil⟩
theorem maxRMr16 (a b : RegIx) : Statement (.maxRMr16 a b) := fun _ _ => ⟨nofun, nofun, _, rfl, rfl, rfl, .nil⟩
theorem maxRMr24 (a b : RegIx) : Statement (.maxRMr24 a b) := fun _ _ => ⟨nofun, nofun, _, rfl, rfl, rfl, .nil⟩
theorem maxRMr32 (a b : RegIx) : Statement (.maxRMr32 a b) := fun _ _ => ⟨nofun, nofun, _, rfl, rfl, rfl, .nil⟩
theorem maxRMa8 (a : RegIx) (addr : Addr) : Statement (.maxRMa8 a addr) := fun _ _ => ⟨nofun, nofun, _, rfl, congrArg (Instr.maxRMa8 a) (Fields.imm_zero _ _ _ _ _ _ addr _), rfl, .cons (BitVec.isLt _) .nil⟩
theorem maxRMa16 (a : RegIx) (addr : Addr) : Statement (.maxRMa16 a addr) := fun _ _ => ⟨nofun, nofun, _, rfl, congrArg (Instr.maxRMa16 a) (Fields.imm_zero _ _ _ _ _ _ addr _), rfl, .cons (BitVec.isLt _) .nil⟩
theorem maxRMa24 (a : RegIx) (addr : Addr) : Statement (.maxRMa24 a addr) := fun _ _ => ⟨nofun, nofun, _, rfl, congrArg (Instr.maxRMa24 a) (Fields.imm_zero _ _ _ _ _ _ addr _), rfl, .cons (BitVec.isLt _) .nil⟩
theorem maxRMa32 (a : RegIx) (addr : Addr) : Statement (.maxRMa32 a addr) := fun _ _ => ⟨nofun, nofun, _, rfl, congrArg (Instr.maxRMa32 a) (Fields.imm_zero _ _ _ _ _ _ addr _), rfl, .cons (BitVec.isLt _) .nil⟩
theorem maxMrR8 (a b : RegIx) : Statement (.maxMrR8 a b) := fun _ _ => ⟨nofun, nofun, _, rfl, rfl, rfl, .nil⟩
theorem maxMrR16 (a b : RegIx) : Statement (.maxMrR16 a b) := fun _ _ => ⟨nofun, nofun, _, rfl, rfl, rfl, .nil⟩
theorem maxMrR24 (a b : RegIx) : Statement (.maxMrR24 a b) := fun _ _ => ⟨nofun, nofun, _, rfl, rfl, rfl, .nil⟩
theorem maxMrR32 (a b : RegIx) : Statement (.maxMrR32 a b) := fun _ _ => ⟨nofun, nofun, _, rfl, rfl, rfl, .nil⟩
theorem maxMaR8 (addr : Addr) (a : RegIx) : Statement (.maxMaR8 addr a) := fun _ _ => ⟨nofun, nofun, _, rfl, congrArg (fun x => Instr.maxMaR8 x a) (Fields.imm_zero _ _ _ _ _ _ addr _), rfl, .cons (BitVec.isLt _) .nil⟩
theorem maxMaR16 (addr : Addr) (a : RegIx) : Statement (.maxMaR16 addr a) := fun _ _ => ⟨nofun, nofun, _, rfl, congrArg (fun x => Instr.maxMaR16 x a) (Fields.imm_zero _ _ _ _ _ _ addr _), rfl, .cons (BitVec.isLt _) .nil⟩
theorem maxMaR24 (addr : Addr) (a : RegIx) : Statement (.maxMaR24 addr a) := fun _ _ => ⟨nofun, nofun, _, rfl, congrArg (fun x => Instr.maxMaR24 x a) (Fields.imm_zero _ _ _ _ _ _ addr _), rfl, .cons (BitVec.isLt _) .nil⟩
theorem maxMaR32 (addr : Addr) (a : RegIx) : Statement (.maxMaR32 addr a) := fun _ _ => ⟨nofun, nofun, _, rfl, congrArg (fun x => Instr.maxMaR32 x a) (Fields.imm_zero _ _ _ _ _ _ addr _), rfl, .cons (BitVec.isLt _) .nil⟩
theorem maxMrI8 (a : RegIx) (imm : BitVec 8) : Statement (.maxMrI8 a imm) := fun _ _ => ⟨nofun, nofun, _, rfl, congrArg (Instr.maxMrI8 a) (Fields.imm_zero _ _ _ _ _ _ imm _), rfl, .cons (BitVec.isLt _) .nil⟩
theorem maxMrI16 (a : RegIx) (imm : BitVec 16) : Statement (.maxMrI16 a imm) := fun _ _ => ⟨nofun, nofun, _, rfl, congrArg (Instr.maxMrI16 a) (Fields.imm_zero _ _ _ _ _ _ imm _), rfl, .cons (BitVec.isLt _) .nil⟩
theorem maxMrI24 (a : RegIx) (imm : BitVec 24) : Statement (.maxMrI24 a imm) := fun _ _ => ⟨nofun, nofun, _, rfl, congrArg (Instr.maxMrI24 a) (Fields.imm_zero _ _ _ _ _ _ imm _), rfl, .cons (BitVec.isLt _) .nil⟩
theorem maxMrI32 (a : RegIx) (imm : BitVec 32) : Statement (.maxMrI32 a imm) := fun _ _ => ⟨nofun, nofun, _, rfl, congrArg (Instr.maxMrI32 a) (Fields.imm_zero _ _ _ _ _ _ imm _), rfl, .cons (BitVec.isLt _) .nil⟩
theorem maxMaI8 (addr : Addr) (imm : BitVec 8) : Statement (.maxMaI8 addr imm) := fun _ _ => ⟨nofun, nofun, _, rfl, congrArg₂ (fun x y => Instr.maxMaI8 x y) (Fields.imm_zero _ _ _ _ _ _ addr _) (Fields.imm_one _ _ _ _ _ _ _ imm _), rfl, .cons (BitVec.isLt _) (.cons (BitVec.isLt _) .nil)⟩
theorem maxMaI16 (addr : Addr) (imm : BitVec 16) : Statement (.maxMaI16 addr imm) := fun _ _ => ⟨nofun, nofun, _, rfl, congrArg₂ (fun x y => Instr.maxMaI16 x y) (Fields.imm_zero _ _ _ _ _ _ addr _) (Fields.imm_one _ _ _ _ _ _ _ imm _), rfl, .cons (BitVec.isLt _) (.cons (BitVec.isLt _) .nil)⟩
theorem maxMaI24 (addr : Addr) (imm : BitVec 24) : Statement (.maxMaI24 addr imm) := fun _ _ => ⟨nofun, nofun, _, rfl, congrArg₂ (fun x y => Instr.maxMaI24 x y) (Fields.imm_zero _ _ _ _ _ _ addr _) (Fields.imm_one _ _ _ _ _ _ _ imm _), rfl, .cons (BitVec.isLt _) (.cons (BitVec.isLt _) .nil)⟩
theorem maxMaI32 (addr : Addr) (imm : BitVec 32) : Statement (.maxMaI32 addr imm) := fun _ _ => ⟨nofun, nofun, _, rfl, congrArg₂ (fun x y => Instr.maxMaI32 x y) (Fields.imm_zero _ _ _ _ _ _ addr _) (Fields.imm_one _ _ _ _ _ _ _ imm _), rfl, .cons (BitVec.isLt _) (.cons (BitVec.isLt _) .nil)⟩
theorem maxRF8 (a : RegIx) (fb : FloatIx) : Statement (.maxRF8 a fb) := fun _ _ => ⟨nofun, nofun, _, rfl, congrArg (Instr.maxRF8 a) (widen_narrow fb), rfl, .nil⟩
theorem maxRF16 (a : RegIx) (fb : FloatIx) : Statement (.maxRF16 a fb) := fun _ _ => ⟨nofun, nofun, _, rfl, congrArg (Instr.maxRF16 a) (widen_narrow fb), rfl, .nil⟩
theorem maxRF24 (a : RegIx) (fb : FloatIx) : Statement (.maxRF24 a fb) := fun _ _ => ⟨nofun, nofun, _, rfl, congrArg (Instr.maxRF24 a) (widen_narrow fb), rfl, .nil⟩
theorem maxRF32 (a : RegIx) (fb : FloatIx) : Statement (.maxRF32 a fb) := fun _ _ => ⟨nofun, nofun, _, rfl, congrArg (Instr.maxRF32 a) (widen_narrow fb), rfl, .nil⟩
theorem maxFF (fa fb : FloatIx) : Statement (.maxFF fa fb) := fun _ _ => ⟨nofun, nofun, _, rfl, rfl, rfl, .nil⟩
-- INC
theorem incR8 (a : RegIx) : Statement (.incR8 a) := fun _ _ => ⟨nofun, nofun, _, rfl, rfl, rfl, .nil⟩
theorem incR16 (a : RegIx) : Statement (.incR16 a) := fun _ _ => ⟨nofun, nofun, _, rfl, rfl, rfl, .nil⟩
theorem incR24 (a : RegIx) : Statement (.incR24 a) := fun _ _ => ⟨nofun, nofun, _, rfl, rfl, rfl, .nil⟩
theorem incR32 (a : RegIx) : Statement (.incR32 a) := fun _ _ => ⟨nofun, nofun, _, rfl, rfl, rfl, .nil⟩
theorem incMr8 (a : RegIx) : Statement (.incMr8 a) := fun _ _ => ⟨nofun, nofun, _, rfl, rfl, rfl, .nil⟩
theorem incMr16 (a : RegIx) : Statement (.incMr16 a) := fun _ _ => ⟨nofun, nofun, _, rfl, rfl, rfl, .nil⟩
theorem incMr24 (a : RegIx) : Statement (.incMr24 a) := fun _ _ => ⟨nofun, nofun, _, rfl, rfl, rfl, .nil⟩
theorem incMr32 (a : RegIx) : Statement (.incMr32 a) := fun _ _ => ⟨nofun, nofun, _, rfl, rfl, rfl, .nil⟩
theorem incMa8 (addr : Addr) : Statement (.incMa8 addr) := fun _ _ => ⟨nofun, nofun, _, rfl, congrArg Instr.incMa8 (Fields.imm_zero _ _ _ _ _ _ addr _), rfl, .cons (BitVec.isLt _) .nil⟩
theorem incMa16 (addr : Addr) : Statement (.incMa16 addr) := fun _ _ => ⟨nofun, nofun, _, rfl, congrArg Instr.incMa16 (Fields.imm_zero _ _ _ _ _ _ addr _), rfl, .cons (BitVec.isLt _) .nil⟩
theorem incMa24 (addr : Addr) : Statement (.incMa24 addr) := fun _ _ => ⟨nofun, nofun, _, rfl, congrArg Instr.incMa24 (Fields.imm_zero _ _ _ _ _ _ addr _), rfl, .cons (BitVec.isLt _) .nil⟩
theorem incMa32 (addr : Addr) : Statement (.incMa32 addr) := fun _ _ => ⟨nofun, nofun, _, rfl, congrArg Instr.incMa32 (Fields.imm_zero _ _ _ _ _ _ addr _), rfl, .cons (BitVec.isLt _) .nil⟩
-- DEC
theorem decR8 (a : RegIx) : Statement (.decR8 a) := fun _ _ => ⟨nofun, nofun, _, rfl, rfl, rfl, .nil⟩
theorem decR16 (a : RegIx) : Statement (.decR16 a) := fun _ _ => ⟨nofun, nofun, _, rfl, rfl, rfl, .nil⟩
theorem decR24 (a : RegIx) : Statement (.decR24 a) := fun _ _ => ⟨nofun, nofun, _, rfl, rfl, rfl, .nil⟩
theorem decR32 (a : RegIx) : Statement (.decR32 a) := fun _ _ => ⟨nofun, nofun, _, rfl, rfl, rfl, .nil⟩
theorem decMr8 (a : RegIx) : Statement (.decMr8 a) := fun _ _ => ⟨nofun, nofun, _, rfl, rfl, rfl, .nil⟩
theorem decMr16 (a : RegIx) : Statement (.decMr16 a) := fun _ _ => ⟨nofun, nofun, _, rfl, rfl, rfl, .nil⟩
theorem decMr24 (a : RegIx) : Statement (.decMr24 a) := fun _ _ => ⟨nofun, nofun, _, rfl, rfl, rfl, .nil⟩
theorem decMr32 (a : RegIx) : Statement (.decMr32 a) := fun _ _ => ⟨nofun, nofun, _, rfl, rfl, rfl, .nil⟩
theorem decMa8 (addr : Addr) : Statement (.decMa8 addr) := fun _ _ => ⟨nofun, nofun, _, rfl, congrArg Instr.decMa8 (Fields.imm_zero _ _ _ _ _ _ addr _), rfl, .cons (BitVec.isLt _) .nil⟩
theorem decMa16 (addr : Addr) : Statement (.decMa16 addr) := fun _ _ => ⟨nofun, nofun, _, rfl, congrArg Instr.decMa16 (Fields.imm_zero _ _ _ _ _ _ addr _), rfl, .cons (BitVec.isLt _) .nil⟩
theorem decMa24 (addr : Addr) : Statement (.decMa24 addr) := fun _ _ => ⟨nofun, nofun, _, rfl, congrArg Instr.decMa24 (Fields.imm_zero _ _ _ _ _ _ addr _), rfl, .cons (BitVec.isLt _) .nil⟩
theorem decMa32 (addr : Addr) : Statement (.decMa32 addr) := fun _ _ => ⟨nofun, nofun, _, rfl, congrArg Instr.decMa32 (Fields.imm_zero _ _ _ _ _ _ addr _), rfl, .cons (BitVec.isLt _) .nil⟩
-- INV
theorem invR8 (a : RegIx) : Statement (.invR8 a) := fun _ _ => ⟨nofun, nofun, _, rfl, rfl, rfl, .nil⟩
theorem invR16 (a : RegIx) : Statement (.invR16 a) := fun _ _ => ⟨nofun, nofun, _, rfl, rfl, rfl, .nil⟩
theorem invR24 (a : RegIx) : Statement (.invR24 a) := fun _ _ => ⟨nofun, nofun, _, rfl, rfl, rfl, .nil⟩
theorem invR32 (a : RegIx) : Statement (.invR32 a) := fun _ _ => ⟨nofun, nofun, _, rfl, rfl, rfl, .nil⟩
-- SL
theorem slI8 (a : RegIx) (n : Byte) : Statement (.slI8 a n) := fun _ _ => ⟨nofun, nofun, _, rfl, congrArg (Instr.slI8 a) (Fields.imm_zero _ _ _ _ _ _ n _), rfl, .cons (BitVec.isLt _) .nil⟩
theorem slI16 (a : RegIx) (n : Byte) : Statement (.slI16 a n) := fun _ _ => ⟨nofun, nofun, _, rfl, congrArg (Instr.slI16 a) (Fields.imm_zero _ _ _ _ _ _ n _), rfl, .cons (BitVec.isLt _) .nil⟩
theorem slI24 (a : RegIx) (n : Byte) : Statement (.slI24 a n) := fun _ _ => ⟨nofun, nofun, _, rfl, congrArg (Instr.slI24 a) (Fields.imm_zero _ _ _ _ _ _ n _), rfl, .cons (BitVec.isLt _) .nil⟩
theorem slI32 (a : RegIx) (n : Byte) : Statement (.slI32 a n) := fun _ _ => ⟨nofun, nofun, _, rfl, congrArg (Instr.slI32 a) (Fields.imm_zero _ _ _ _ _ _ n _), rfl, .cons (BitVec.isLt _) .nil⟩
theorem slR8 (a b : RegIx) : Statement (.slR8 a b) := fun _ _ => ⟨nofun, nofun, _, rfl, rfl, rfl, .nil⟩
theorem slR16 (a b : RegIx) : Statement (.slR16 a b) := fun _ _ => ⟨nofun, nofun, _, rfl, rfl, rfl, .nil⟩
theorem slR24 (a b : RegIx) : Statement (.slR24 a b) := fun _ _ => ⟨nofun, nofun, _, rfl, rfl, rfl, .nil⟩
theorem slR32 (a b : RegIx) : Statement (.slR32 a b) := fun _ _ => ⟨nofun, nofun, _, rfl, rfl, rfl, .nil⟩
-- SR
theorem srI8 (a : RegIx) (n : Byte) : Statement (.srI8 a n) := fun _ _ => ⟨nofun, nofun, _, rfl, congrArg (Instr.srI8 a) (Fields.imm_zero _ _ _ _ _ _ n _), rfl, .cons (BitVec.isLt _) .nil⟩
theorem srI16 (a : RegIx) (n : Byte) : Statement (.srI16 a n) := fun _ _ => ⟨nofun, nofun, _, rfl, congrArg (Instr.srI16 a) (Fields.imm_zero _ _ _ _ _ _ n _), rfl, .cons (BitVec.isLt _) .nil⟩
theorem srI24 (a : RegIx) (n : Byte) : Statement (.srI24 a n) := fun _ _ => ⟨nofun, nofun, _, rfl, congrArg (Instr.srI24 a) (Fields.imm_zero _ _ _ _ _ _ n _), rfl, .cons (BitVec.isLt _) .nil⟩
theorem srI32 (a : RegIx) (n : Byte) : Statement (.srI32 a n) := fun _ _ => ⟨nofun, nofun, _, rfl, congrArg (Instr.srI32 a) (Fields.imm_zero _ _ _ _ _ _ n _), rfl, .cons (BitVec.isLt _) .nil⟩
theorem srR8 (a b : RegIx) : Statement (.srR8 a b) := fun _ _ => ⟨nofun, nofun, _, rfl, rfl, rfl, .nil⟩
theorem srR16 (a b : RegIx) : Statement (.srR16 a b) := fun _ _ => ⟨nofun, nofun, _, rfl, rfl, rfl, .nil⟩
theorem srR24 (a b : RegIx) : Statement (.srR24 a b) := fun _ _ => ⟨nofun, nofun, _, rfl, rfl, rfl, .nil⟩
theorem srR32 (a b : RegIx) : Statement (.srR32 a b) := fun _ _ => ⟨nofun, nofun, _, rfl, rfl, rfl, .nil⟩
-- RL
theorem rlI8 (a : RegIx) (n : Byte) : Statement (.rlI8 a n) := fun _ _ => ⟨nofun, nofun, _, rfl, congrArg (Instr.rlI8 a) (Fields.imm_zero _ _ _ _ _ _ n _), rfl, .cons (BitVec.isLt _) .nil⟩
theorem rlI16 (a : RegIx) (n : Byte) : Statement (.rlI16 a n) := fun _ _ => ⟨nofun, nofun, _, rfl, congrArg (Instr.rlI16 a) (Fields.imm_zero _ _ _ _ _ _ n _), rfl, .cons (BitVec.isLt _) .nil⟩
theorem rlI24 (a : RegIx) (n : Byte) : Statement (.rlI24 a n) := fun _ _ => ⟨nofun, nofun, _, rfl, congrArg (Instr.rlI24 a) (Fields.imm_zero _ _ _ _ _ _ n _), rfl, .cons (BitVec.isLt _) .nil⟩
theorem rlI32 (a : RegIx) (n : Byte) : Statement (.rlI32 a n) := fun _ _ => ⟨nofun, nofun, _, rfl, congrArg (Instr.rlI32 a) (Fields.imm_zero _ _ _ _ _ _ n _), rfl, .cons (BitVec.isLt _) .nil⟩
theorem rlR8 (a b : RegIx) : Statement (.rlR8 a b) := fun _ _ => ⟨nofun, nofun, _, rfl, rfl, rfl, .nil⟩
theorem rlR16 (a b : RegIx) : Statement (.rlR16 a b) := fun _ _ => ⟨nofun, nofun, _, rfl, rfl, rfl, .nil⟩
theorem rlR24 (a b : RegIx) : Statement (.rlR24 a b) := fun _ _ => ⟨nofun, nofun, _, rfl, rfl, rfl, .nil⟩
theorem rlR32 (a b : RegIx) : Statement (.rlR32 a b) := fun _ _ => ⟨nofun, nofun, _, rfl, rfl, rfl, .nil⟩
-- RR
theorem rrI8 (a : RegIx) (n : Byte) : Statement (.rrI8 a n) := fun _ _ => ⟨nofun, nofun, _, rfl, congrArg (Instr.rrI8 a) (Fields.imm_zero _ _ _ _ _ _ n _), rfl, .cons (BitVec.isLt _) .nil⟩
theorem rrI16 (a : RegIx) (n : Byte) : Statement (.rrI16 a n) := fun _ _ => ⟨nofun, nofun, _, rfl, congrArg (Instr.rrI16 a) (Fields.imm_zero _ _ _ _ _ _ n _), rfl, .cons (BitVec.isLt _) .nil⟩
theorem rrI24 (a : RegIx) (n : Byte) : Statement (.rrI24 a n) := fun _ _ => ⟨nofun, nofun, _, rfl, congrArg (Instr.rrI24 a) (Fields.imm_zero _ _ _ _ _ _ n _), rfl, .cons (BitVec.isLt _) .nil⟩
theorem rrI32 (a : RegIx) (n : Byte) : Statement (.rrI32 a n) := fun _ _ => ⟨nofun, nofun, _, rfl, congrArg (Instr.rrI32 a) (Fields.imm_zero _ _ _ _ _ _ n _), rfl, .cons (BitVec.isLt _) .nil⟩
theorem rrR8 (a b : RegIx) : Statement (.rrR8 a b) := fun _ _ => ⟨nofun, nofun, _, rfl, rfl, rfl, .nil⟩
theorem rrR16 (a b : RegIx) : Statement (.rrR16 a b) := fun _ _ => ⟨nofun, nofun, _, rfl, rfl, rfl, .nil⟩
theorem rrR24 (a b : RegIx) : Statement (.rrR24 a b) := fun _ _ => ⟨nofun, nofun, _, rfl, rfl, rfl, .nil⟩
theorem rrR32 (a b : RegIx) : Statement (.rrR32 a b) := fun _ _ => ⟨nofun, nofun, _, rfl, rfl, rfl, .nil⟩
-- SET
theorem setI8 (a : RegIx) (n : Byte) : Statement (.setI8 a n) := fun _ _ => ⟨nofun, nofun, _, rfl, congrArg (Instr.setI8 a) (Fields.imm_zero _ _ _ _ _ _ n _), rfl, .cons (BitVec.isLt _) .nil⟩
theorem setI16 (a : RegIx) (n : Byte) : Statement (.setI16 a n) := fun _ _ => ⟨nofun, nofun, _, rfl, congrArg (Instr.setI16 a) (Fields.imm_zero _ _ _ _ _ _ n _), rfl, .cons (BitVec.isLt _) .nil⟩
theorem setI24 (a : RegIx) (n : Byte) : Statement (.setI24 a n) := fun _ _ => ⟨nofun, nofun, _, rfl, congrArg (Instr.setI24 a) (Fields.imm_zero _ _ _ _ _ _ n _), rfl, .cons (BitVec.isLt _) .nil⟩
theorem setI32 (a : RegIx) (n : Byte) : Statement (.setI32 a n) := fun _ _ => ⟨nofun, nofun, _, rfl, congrArg (Instr.setI32 a) (Fields.imm_zero _ _ _ _ _ _ n _), rfl, .cons (BitVec.isLt _) .nil⟩
theorem setR8 (a b : RegIx) : Statement (.setR8 a b) := fun _ _ => ⟨nofun, nofun, _, rfl, rfl, rfl, .nil⟩
theorem setR16 (a b : RegIx) : Statement (.setR16 a b) := fun _ _ => ⟨nofun, nofun, _, rfl, rfl, rfl, .nil⟩
theorem setR24 (a b : RegIx) : Statement (.setR24 a b) := fun _ _ => ⟨nofun, nofun, _, rfl, rfl, rfl, .nil⟩
theorem setR32 (a b : RegIx) : Statement (.setR32 a b) := fun _ _ => ⟨nofun, nofun, _, rfl, rfl, rfl, .nil⟩
-- RES
theorem resI8 (a : RegIx) (n : Byte) : Statement (.resI8 a n) := fun _ _ => ⟨nofun, nofun, _, rfl, congrArg (Instr.resI8 a) (Fields.imm_zero _ _ _ _ _ _ n _), rfl, .cons (BitVec.isLt _) .nil⟩
theorem resI16 (a : RegIx) (n : Byte) : Statement (.resI16 a n) := fun _ _ => ⟨nofun, nofun, _, rfl, congrArg (Instr.resI16 a) (Fields.imm_zero _ _ _ _ _ _ n _), rfl, .cons (BitVec.isLt _) .nil⟩
theorem resI24 (a : RegIx) (n : Byte) : Statement (.resI24 a n) := fun _ _ => ⟨nofun, nofun, _, rfl, congrArg (Instr.resI24 a) (Fields.imm_zero _ _ _ _ _ _ n _), rfl, .cons (BitVec.isLt _) .nil⟩
theorem resI32 (a : RegIx) (n : Byte) : Statement (.resI32 a n) := fun _ _ => ⟨nofun, nofun, _, rfl, congrArg (Instr.resI32 a) (Fields.imm_zero _ _ _ _ _ _ n _), rfl, .cons (BitVec.isLt _) .nil⟩
theorem resR8 (a b : RegIx) : Statement (.resR8 a b) := fun _ _ => ⟨nofun, nofun, _, rfl, rfl, rfl, .nil⟩
theorem resR16 (a b : RegIx) : Statement (.resR16 a b) := fun _ _ => ⟨nofun, nofun, _, rfl, rfl, rfl, .nil⟩
theorem resR24 (a b : RegIx) : Statement (.resR24 a b) := fun _ _ => ⟨nofun, nofun, _, rfl, rfl, rfl, .nil⟩
theorem resR32 (a b : RegIx) : Statement (.resR32 a b) := fun _ _ => ⟨nofun, nofun, _, rfl, rfl, rfl, .nil⟩
-- BIT
theorem bitI8 (a : RegIx) (n : Byte) : Statement (.bitI8 a n) := fun _ _ => ⟨nofun, nofun, _, rfl, congrArg (Instr.bitI8 a) (Fields.imm_zero _ _ _ _ _ _ n _), rfl, .cons (BitVec.isLt _) .nil⟩
theorem bitI16 (a : RegIx) (n : Byte) : Statement (.bitI16 a n) := fun _ _ => ⟨nofun, nofun, _, rfl, congrArg (Instr.bitI16 a) (Fields.imm_zero _ _ _ _ _ _ n _), rfl, .cons (BitVec.isLt _) .nil⟩
theorem bitI24 (a : RegIx) (n : Byte) : Statement (.bitI24 a n) := fun _ _ => ⟨nofun, nofun, _, rfl, congrArg (Instr.bitI24 a) (Fields.imm_zero _ _ _ _ _ _ n _), rfl, .cons (BitVec.isLt _) .nil⟩
theorem bitI32 (a : RegIx) (n : Byte) : Statement (.bitI32 a n) := fun _ _ => ⟨nofun, nofun, _, rfl, congrArg (Instr.bitI32 a) (Fields.imm_zero _ _ _ _ _ _ n _), rfl, .cons (BitVec.isLt _) .nil⟩
theorem bitR8 (a b : RegIx) : Statement (.bitR8 a b) := fun _ _ => ⟨nofun, nofun, _, rfl, rfl, rfl, .nil⟩
theorem bitR16 (a b : RegIx) : Statement (.bitR16 a b) := fun _ _ => ⟨nofun, nofun, _, rfl, rfl, rfl, .nil⟩
theorem bitR24 (a b : RegIx) : Statement (.bitR24 a b) := fun _ _ => ⟨nofun, nofun, _, rfl, rfl, rfl, .nil⟩
theorem bitR32 (a b : RegIx) : Statement (.bitR32 a b) := fun _ _ => ⟨nofun, nofun, _, rfl, rfl, rfl, .nil⟩
-- GETBITS
theorem getbitsI8 (a b : RegIx) (n : Byte) : Statement (.getbitsI8 a b n) := fun _ _ => ⟨nofun, nofun, _, rfl, congrArg (Instr.getbitsI8 a b) (Fields.imm_zero _ _ _ _ _ _ n _), rfl, .cons (BitVec.isLt _) .nil⟩
theorem getbitsI16 (a b : RegIx) (n : Byte) : Statement (.getbitsI16 a b n) := fun _ _ => ⟨nofun, nofun, _, rfl, congrArg (Instr.getbitsI16 a b) (Fields.imm_zero _ _ _ _ _ _ n _), rfl, .cons (BitVec.isLt _) .nil⟩
theorem getbitsI24 (a b : RegIx) (n : Byte) : Statement (.getbitsI24 a b n) := fun _ _ => ⟨nofun, nofun, _, rfl, congrArg (Instr.getbitsI24 a b) (Fields.imm_zero _ _ _ _ _ _ n _), rfl, .cons (BitVec.isLt _) .nil⟩
theorem getbitsI32 (a b : RegIx) (n : Byte) : Statement (.getbitsI32 a b n) := fun _ _ => ⟨nofun, nofun, _, rfl, congrArg (Instr.getbitsI32 a b) (Fields.imm_zero _ _ _ _ _ _ n _), rfl, .cons (BitVec.isLt _) .nil⟩
theorem getbitsR8 (a b c : RegIx) : Statement (.getbitsR8 a b c) := fun _ _ => ⟨nofun, nofun, _, rfl, rfl, rfl, .nil⟩
theorem getbitsR16 (a b c : RegIx) : Statement (.getbitsR16 a b c) := fun _ _ => ⟨nofun, nofun, _, rfl, rfl, rfl, .nil⟩
theorem getbitsR24 (a b c : RegIx) : Statement (.getbitsR24 a b c) := fun _ _ => ⟨nofun, nofun, _, rfl, rfl, rfl, .nil⟩
theorem getbitsR32 (a b c : RegIx) : Statement (.getbitsR32 a b c) := fun _ _ => ⟨nofun, nofun, _, rfl, rfl, rfl, .nil⟩
-- SETBITS
theorem setbitsI8 (a b : RegIx) (n : Byte) : Statement (.setbitsI8 a b n) := fun _ _ => ⟨nofun, nofun, _, rfl, congrArg (Instr.setbitsI8 a b) (Fields.imm_zero _ _ _ _ _ _ n _), rfl, .cons (BitVec.isLt _) .nil⟩
theorem setbitsI16 (a b : RegIx) (n : Byte) : Statement (.setbitsI16 a b n) := fun _ _ => ⟨nofun, nofun, _, rfl, congrArg (Instr.setbitsI16 a b) (Fields.imm_zero _ _ _ _ _ _ n _), rfl, .cons (BitVec.isLt _) .nil⟩
theorem setbitsI24 (a b : RegIx) (n : Byte) : Statement (.setbitsI24 a b n) := fun _ _ => ⟨nofun, nofun, _, rfl, congrArg (Instr.setbitsI24 a b) (Fields.imm_zero _ _ _ _ _ _ n _), rfl, .cons (BitVec.isLt _) .nil⟩
theorem setbitsI32 (a b : RegIx) (n : Byte) : Statement (.setbitsI32 a b n) := fun _ _ => ⟨nofun, nofun, _, rfl, congrArg (Instr.setbitsI32 a b) (Fields.imm_zero _ _ _ _ _ _ n _), rfl, .cons (BitVec.isLt _) .nil⟩
theorem setbitsR8 (a b c : RegIx) : Statement (.setbitsR8 a b c) := fun _ _ => ⟨nofun, nofun, _, rfl, rfl, rfl, .nil⟩
theorem setbitsR16 (a b c : RegIx) : Statement (.setbitsR16 a b c) := fun _ _ => ⟨nofun, nofun, _, rfl, rfl, rfl, .nil⟩
theorem setbitsR24 (a b c : RegIx) : Statement (.setbitsR24 a b c) := fun _ _ => ⟨nofun, nofun, _, rfl, rfl, rfl, .nil⟩
theorem setbitsR32 (a b c : RegIx) : Statement (.setbitsR32 a b c) := fun _ _ => ⟨nofun, nofun, _, rfl, rfl, rfl, .nil⟩
-- JP
theorem jpImm (addr : Addr) : Statement (.jpImm addr) := fun _ _ => ⟨nofun, nofun, _, rfl, congrArg Instr.jpImm (Fields.imm_zero _ _ _ _ _ _ addr _), rfl, .cons (BitVec.isLt _) .nil⟩
theorem jpReg (r : RegIx) : Statement (.jpReg r) := fun _ _ => ⟨nofun, nofun, _, rfl, rfl, rfl, .nil⟩
theorem jpCond (flag : FlagIx) (addr : Addr) : Statement (.jpCond flag addr) := fun _ _ => ⟨nofun, nofun, _, rfl, congrArg (Instr.jpCond flag) (Fields.imm_zero _ _ _ _ _ _ addr _), rfl, .cons (BitVec.isLt _) .nil⟩
-- JR
theorem jrRel (off : BitVec 24) : Statement (.jrRel off) := fun _ _ => ⟨nofun, nofun, _, rfl, congrArg Instr.jrRel (Fields.imm_zero _ _ _ _ _ _ off _), rfl, .cons (BitVec.isLt _) .nil⟩
-- CALL
theorem callImm (addr : Addr) : Statement (.callImm addr) := fun _ _ => ⟨nofun, nofun, _, rfl, congrArg Instr.callImm (Fields.imm_zero _ _ _ _ _ _ addr _), rfl, .cons (BitVec.isLt _) .nil⟩
theorem callReg (r : RegIx) : Statement (.callReg r) := fun _ _ => ⟨nofun, nofun, _, rfl, rfl, rfl, .nil⟩
theorem callCond (flag : FlagIx) (addr : Addr) : Statement (.callCond flag addr) := fun _ _ => ⟨nofun, nofun, _, rfl, congrArg (Instr.callCond flag) (Fields.imm_zero _ _ _ _ _ _ addr _), rfl, .cons (BitVec.isLt _) .nil⟩
-- CALLR
theorem callrRel (off : BitVec 24) : Statement (.callrRel off) := fun _ _ => ⟨nofun, nofun, _, rfl, congrArg Instr.callrRel (Fields.imm_zero _ _ _ _ _ _ off _), rfl, .cons (BitVec.isLt _) .nil⟩
-- RET
theorem ret : Statement (.ret) := fun _ _ => ⟨nofun, nofun, _, rfl, rfl, rfl, .nil⟩
-- RETIF
theorem retif (flag : FlagIx) : Statement (.retif flag) := fun _ _ => ⟨nofun, nofun, _, rfl, rfl, rfl, .nil⟩
-- SCP
theorem scpRR8 (a b : RegIx) : Statement (.scpRR8 a b) := fun _ _ => ⟨nofun, nofun, _, rfl, rfl, rfl, .nil⟩
theorem scpRR16 (a b : RegIx) : Statement (.scpRR16 a b) := fun _ _ => ⟨nofun, nofun, _, rfl, rfl, rfl, .nil⟩
theorem scpRR24 (a b : RegIx) : Statement (.scpRR24 a b) := fun _ _ => ⟨nofun, nofun, _, rfl, rfl, rfl, .nil⟩
theorem scpRR32 (a b : RegIx) : Statement (.scpRR32 a b) := fun _ _ => ⟨nofun, nofun, _, rfl, rfl, rfl, .nil⟩
theorem scpRI8 (a : RegIx) (imm : BitVec 8) : Statement (.scpRI8 a imm) := fun _ _ => ⟨nofun, nofun, _, rfl, congrArg (Instr.scpRI8 a) (Fields.imm_zero _ _ _ _ _ _ imm _), rfl, .cons (BitVec.isLt _) .nil⟩
theorem scpRI16 (a : RegIx) (imm : BitVec 16) : Statement (.scpRI16 a imm) := fun _ _ => ⟨nofun, nofun, _, rfl, congrArg (Instr.scpRI16 a) (Fields.imm_zero _ _ _ _ _ _ imm _), rfl, .cons (BitVec.isLt _) .nil⟩
theorem scpRI24 (a : RegIx) (imm : BitVec 24) : Statement (.scpRI24 a imm) := fun _ _ => ⟨nofun, nofun, _, rfl, congrArg (Instr.scpRI24 a) (Fields.imm_zero _ _ _ _ _ _ imm _), rfl, .cons (BitVec.isLt _) .nil⟩
theorem scpRI32 (a : RegIx) (imm : BitVec 32) : Statement (.scpRI32 a imm) := fun _ _ => ⟨nofun, nofun, _, rfl, congrArg (Instr.scpRI32 a) (Fields.imm_zero _ _ _ _ _ _ imm _), rfl, .cons (BitVec.isLt _) .nil⟩
theorem scpRMr8 (a b : RegIx) : Statement (.scpRMr8 a b) := fun _ _ => ⟨nofun, nofun, _, rfl, rfl, rfl, .nil⟩
theorem scpRMr16 (a b : RegIx) : Statement (.scpRMr16 a b) := fun _ _ => ⟨nofun, nofun, _, rfl, rfl, rfl, .nil⟩
theorem scpRMr24 (a b : RegIx) : Statement (.scpRMr24 a b) := fun _ _ => ⟨nofun, nofun, _, rfl, rfl, rfl, .nil⟩
theorem scpRMr32 (a b : RegIx) : Statement (.scpRMr32 a b) := fun _ _ => ⟨nofun, nofun, _, rfl, rfl, rfl, .nil⟩
theorem scpRMa8 (a : RegIx) (addr : Addr) : Statement (.scpRMa8 a addr) := fun _ _ => ⟨nofun, nofun, _, rfl, congrArg (Instr.scpRMa8 a) (Fields.imm_zero _ _ _ _ _ _ addr _), rfl, .cons (BitVec.isLt _) .nil⟩
theorem scpRMa16 (a : RegIx) (addr : Addr) : Statement (.scpRMa16 a addr) := fun _ _ => ⟨nofun, nofun, _, rfl, congrArg (Instr.scpRMa16 a) (Fields.imm_zero _ _ _ _ _ _ addr _), rfl, .cons (BitVec.isLt _) .nil⟩
theorem scpRMa24 (a : RegIx) (addr : Addr) : Statement (.scpRMa24 a addr) := fun _ _ => ⟨nofun, nofun, _, rfl, congrArg (Instr.scpRMa24 a) (Fields.imm_zero _ _ _ _ _ _ addr _), rfl, .cons (BitVec.isLt _) .nil⟩
theorem scpRMa32 (a : RegIx) (addr : Addr) : Statement (.scpRMa32 a addr) := fun _ _ => ⟨nofun, nofun, _, rfl, congrArg (Instr.scpRMa32 a) (Fields.imm_zero _ _ _ _ _ _ addr _), rfl, .cons (BitVec.isLt _) .nil⟩
theorem scpMrR8 (a b : RegIx) : Statement (.scpMrR8 a b) := fun _ _ => ⟨nofun, nofun, _, rfl, rfl, rfl, .nil⟩
theorem scpMrR16 (a b : RegIx) : Statement (.scpMrR16 a b) := fun _ _ => ⟨nofun, nofun, _, rfl, rfl, rfl, .nil⟩
theorem scpMrR24 (a b : RegIx) : Statement (.scpMrR24 a b) := fun _ _ => ⟨nofun, nofun, _, rfl, rfl, rfl, .nil⟩
theorem scpMrR32 (a b : RegIx) : Statement (.scpMrR32 a b) := fun _ _ => ⟨nofun, nofun, _, rfl, rfl, rfl, .nil⟩
theorem scpMaR8 (addr : Addr) (a : RegIx) : Statement (.scpMaR8 addr a) := fun _ _ => ⟨nofun, nofun, _, rfl, congrArg (fun x => Instr.scpMaR8 x a) (Fields.imm_zero _ _ _ _ _ _ addr _), rfl, .cons (BitVec.isLt _) .nil⟩
theorem scpMaR16 (addr : Addr) (a : RegIx) : Statement (.scpMaR16 addr a) := fun _ _ => ⟨nofun, nofun, _, rfl, congrArg (fun x => Instr.scpMaR16 x a) (Fields.imm_zero _ _ _ _ _ _ addr _), rfl, .cons (BitVec.isLt _) .nil⟩
theorem scpMaR24 (addr : Addr) (a : RegIx) : Statement (.scpMaR24 addr a) := fun _ _ => ⟨nofun, nofun, _, rfl, congrArg (fun x => Instr.scpMaR24 x a) (Fields.imm_zero _ _ _ _ _ _ addr _), rfl, .cons (BitVec.isLt _) .nil⟩
theorem scpMaR32 (addr : Addr) (a : RegIx) : Statement (.scpMaR32 addr a) := fun _ _ => ⟨nofun, nofun, _, rfl, congrArg (fun x => Instr.scpMaR32 x a) (Fields.imm_zero _ _ _ _ _ _ addr _), rfl, .cons (BitVec.isLt _) .nil⟩
theorem scpMrI8 (a : RegIx) (imm : BitVec 8) : Statement (.scpMrI8 a imm) := fun _ _ => ⟨nofun, nofun, _, rfl, congrArg (Instr.scpMrI8 a) (Fields.imm_zero _ _ _ _ _ _ imm _), rfl, .cons (BitVec.isLt _) .nil⟩
theorem scpMrI16 (a : RegIx) (imm : BitVec 16) : Statement (.scpMrI16 a imm) := fun _ _ => ⟨nofun, nofun, _, rfl, congrArg (Instr.scpMrI16 a) (Fields.imm_zero _ _ _ _ _ _ imm _), rfl, .cons (BitVec.isLt _) .nil⟩
theorem scpMrI24 (a : RegIx) (imm : BitVec 24) : Statement (.scpMrI24 a imm) := fun _ _ => ⟨nofun, nofun, _, rfl, congrArg (Instr.scpMrI24 a) (Fields.imm_zero _ _ _ _ _ _ imm _), rfl, .cons (BitVec.isLt _) .nil⟩
theorem scpMrI32 (a : RegIx) (imm : BitVec 32) : Statement (.scpMrI32 a imm) := fun _ _ => ⟨nofun, nofun, _, rfl, congrArg (Instr.scpMrI32 a) (Fields.imm_zero _ _ _ _ _ _ imm _), rfl, .cons (BitVec.isLt _) .nil⟩
theorem scpMaI8 (addr : Addr) (imm : BitVec 8) : Statement (.scpMaI8 addr imm) := fun _ _ => ⟨nofun, nofun, _, rfl, congrArg₂ (fun x y => Instr.scpMaI8 x y) (Fields.imm_zero _ _ _ _ _ _ addr _) (Fields.imm_one _ _ _ _ _ _ _ imm _), rfl, .cons (BitVec.isLt _) (.cons (BitVec.isLt _) .nil)⟩
theorem scpMaI16 (addr : Addr) (imm : BitVec 16) : Statement (.scpMaI16 addr imm) := fun _ _ => ⟨nofun, nofun, _, rfl, congrArg₂ (fun x y => Instr.scpMaI16 x y) (Fields.imm_zero _ _ _ _ _ _ addr _) (Fields.imm_one _ _ _ _ _ _ _ imm _), rfl, .cons (BitVec.isLt _) (.cons (BitVec.isLt _) .nil)⟩
theorem scpMaI24 (addr : Addr) (imm : BitVec 24) : Statement (.scpMaI24 addr imm) := fun _ _ => ⟨nofun, nofun, _, rfl, congrArg₂ (fun x y => Instr.scpMaI24 x y) (Fields.imm_zero _ _ _ _ _ _ addr _) (Fields.imm_one _ _ _ _ _ _ _ imm _), rfl, .cons (BitVec.isLt _) (.cons (BitVec.isLt _) .nil)⟩
theorem scpMaI32 (addr : Addr) (imm : BitVec 32) : Statement (.scpMaI32 addr imm) := fun _ _ => ⟨nofun, nofun, _, rfl, congrArg₂ (fun x y => Instr.scpMaI32 x y) (Fields.imm_zero _ _ _ _ _ _ addr _) (Fields.imm_one _ _ _ _ _ _ _ imm _), rfl, .cons (BitVec.isLt _) (.cons (BitVec.isLt _) .nil)⟩
-- SQR
theorem sqrFF (fa fb : FloatIx) : Statement (.sqrFF fa fb) := fun _ _ => ⟨nofun, nofun, _, rfl, rfl, rfl, .nil⟩
theorem sqrFR8 (fb : FloatIx) (a : RegIx) : Statement (.sqrFR8 fb a) := fun _ _ => ⟨nofun, nofun, _, rfl, congrArg (fun x => Instr.sqrFR8 x a) (widen_narrow fb), rfl, .nil⟩
theorem sqrFR16 (fb : FloatIx) (a : RegIx) : Statement (.sqrFR16 fb a) := fun _ _ => ⟨nofun, nofun, _, rfl, congrArg (fun x => Instr.sqrFR16 x a) (widen_narrow fb), rfl, .nil⟩
theorem sqrFR24 (fb : FloatIx) (a : RegIx) : Statement (.sqrFR24 fb a) := fun _ _ => ⟨nofun, nofun, _, rfl, congrArg (fun x => Instr.sqrFR24 x a) (widen_narrow fb), rfl, .nil⟩
theorem sqrFR32 (fb : FloatIx) (a : RegIx) : Statement (.sqrFR32 fb a) := fun _ _ => ⟨nofun, nofun, _, rfl, congrArg (fun x => Instr.sqrFR32 x a) (widen_narrow fb), rfl, .nil⟩
theorem sqrRF8 (a : RegIx) (fb : FloatIx) : Statement (.sqrRF8 a fb) := fun _ _ => ⟨nofun, nofun, _, rfl, congrArg (Instr.sqrRF8 a) (widen_narrow fb), rfl, .nil⟩
theorem sqrRF16 (a : RegIx) (fb : FloatIx) : Statement (.sqrRF16 a fb) := fun _ _ => ⟨nofun, nofun, _, rfl, congrArg (Instr.sqrRF16 a) (widen_narrow fb), rfl, .nil⟩
theorem sqrRF24 (a : RegIx) (fb : FloatIx) : Statement (.sqrRF24 a fb) := fun _ _ => ⟨nofun, nofun, _, rfl, congrArg (Instr.sqrRF24 a) (widen_narrow fb), rfl, .nil⟩
theorem sqrRF32 (a : RegIx) (fb : FloatIx) : Statement (.sqrRF32 a fb) := fun _ _ => ⟨nofun, nofun, _, rfl, congrArg (Instr.sqrRF32 a) (widen_narrow fb), rfl, .nil⟩
theorem sqrFMr (fb : FloatIx) (a : RegIx) : Statement (.sqrFMr fb a) := fun _ _ => ⟨nofun, nofun, _, rfl, congrArg (fun x => Instr.sqrFMr x a) (widen_narrow fb), rfl, .nil⟩
theorem sqrMrF (a : RegIx) (fb : FloatIx) : Statement (.sqrMrF a fb) := fun _ _ => ⟨nofun, nofun, _, rfl, congrArg (Instr.sqrMrF a) (widen_narrow fb), rfl, .nil⟩
theorem sqrFMa (fa : FloatIx) (addr : Addr) : Statement (.sqrFMa fa addr) := fun _ _ => ⟨nofun, nofun, _, rfl, congrArg (Instr.sqrFMa fa) (Fields.imm_zero _ _ _ _ _ _ addr _), rfl, .cons (BitVec.isLt _) .nil⟩
theorem sqrMaF (addr : Addr) (fa : FloatIx) : Statement (.sqrMaF addr fa) := fun _ _ => ⟨nofun, nofun, _, rfl, congrArg (fun x => Instr.sqrMaF x fa) (Fields.imm_zero _ _ _ _ _ _ addr _), rfl, .cons (BitVec.isLt _) .nil⟩
-- CBR
theorem cbrFF (fa fb : FloatIx) : Statement (.cbrFF fa fb) := fun _ _ => ⟨nofun, nofun, _, rfl, rfl, rfl, .nil⟩
theorem cbrFR8 (fb : FloatIx) (a : RegIx) : Statement (.cbrFR8 fb a) := fun _ _ => ⟨nofun, nofun, _, rfl, congrArg (fun x => Instr.cbrFR8 x a) (widen_narrow fb), rfl, .nil⟩
theorem cbrFR16 (fb : FloatIx) (a : RegIx) : Statement (.cbrFR16 fb a) := fun _ _ => ⟨nofun, nofun, _, rfl, congrArg (fun x => Instr.cbrFR16 x a) (widen_narrow fb), rfl, .nil⟩
theorem cbrFR24 (fb : FloatIx) (a : RegIx) : Statement (.cbrFR24 fb a) := fun _ _ => ⟨nofun, nofun, _, rfl, congrArg (fun x => Instr.cbrFR24 x a) (widen_narrow fb), rfl, .nil⟩
theorem cbrFR32 (fb : FloatIx) (a : RegIx) : Statement (.cbrFR32 fb a) := fun _ _ => ⟨nofun, nofun, _, rfl, congrArg (fun x => Instr.cbrFR32 x a) (widen_narrow fb), rfl, .nil⟩
theorem cbrRF8 (a : RegIx) (fb : FloatIx) : Statement (.cbrRF8 a fb) := fun _ _ => ⟨nofun, nofun, _, rfl, congrArg (Instr.cbrRF8 a) (widen_narrow fb), rfl, .nil⟩
theorem cbrRF16 (a : RegIx) (fb : FloatIx) : Statement (.cbrRF16 a fb) := fun _ _ => ⟨nofun, nofun, _, rfl, congrArg (Instr.cbrRF16 a) (widen_narrow fb), rfl, .nil⟩
theorem cbrRF24 (a : RegIx) (fb : FloatIx) : Statement (.cbrRF24 a fb) := fun _ _ => ⟨nofun, nofun, _, rfl, congrArg (Instr.cbrRF24 a) (widen_narrow fb), rfl, .nil⟩
theorem cbrRF32 (a : RegIx) (fb : FloatIx) : Statement (.cbrRF32 a fb) := fun _ _ => ⟨nofun, nofun, _, rfl, congrArg (Instr.cbrRF32 a) (widen_narrow fb), rfl, .nil⟩
theorem cbrFMr (fb : FloatIx) (a : RegIx) : Statement (.cbrFMr fb a) := fun _ _ => ⟨nofun, nofun, _, rfl, congrArg (fun x => Instr.cbrFMr x a) (widen_narrow fb), rfl, .nil⟩
theorem cbrMrF (a : RegIx) (fb : FloatIx) : Statement (.cbrMrF a fb) := fun _ _ => ⟨nofun, nofun, _, rfl, congrArg (Instr.cbrMrF a) (widen_narrow fb), rfl, .nil⟩
theorem cbrFMa (fa : FloatIx) (addr : Addr) : Statement (.cbrFMa fa addr) := fun _ _ => ⟨nofun, nofun, _, rfl, congrArg (Instr.cbrFMa fa) (Fields.imm_zero _ _ _ _ _ _ addr _), rfl, .cons (BitVec.isLt _) .nil⟩
theorem cbrMaF (addr : Addr) (fa : FloatIx) : Statement (.cbrMaF addr fa) := fun _ _ => ⟨nofun, nofun, _, rfl, congrArg (fun x => Instr.cbrMaF x fa) (Fields.imm_zero _ _ _ _ _ _ addr _), rfl, .cons (BitVec.isLt _) .nil⟩
-- POW
theorem powFF (fa fb : FloatIx) : Statement (.powFF fa fb) := fun _ _ => ⟨nofun, nofun, _, rfl, rfl, rfl, .nil⟩
theorem powFR8 (fb : FloatIx) (a : RegIx) : Statement (.powFR8 fb a) := fun _ _ => ⟨nofun, nofun, _, rfl, congrArg (fun x => Instr.powFR8 x a) (widen_narrow fb), rfl, .nil⟩
theorem powFR16 (fb : FloatIx) (a : RegIx) : Statement (.powFR16 fb a) := fun _ _ => ⟨nofun, nofun, _, rfl, congrArg (fun x => Instr.powFR16 x a) (widen_narrow fb), rfl, .nil⟩
theorem powFR24 (fb : FloatIx) (a : RegIx) : Statement (.powFR24 fb a) := fun _ _ => ⟨nofun, nofun, _, rfl, congrArg (fun x => Instr.powFR24 x a) (widen_narrow fb), rfl, .nil⟩
theorem powFR32 (fb : FloatIx) (a : RegIx) : Statement (.powFR32 fb a) := fun _ _ => ⟨nofun, nofun, _, rfl, congrArg (fun x => Instr.powFR32 x a) (widen_narrow fb), rfl, .nil⟩
theorem powRF8 (a : RegIx) (fb : FloatIx) : Statement (.powRF8 a fb) := fun _ _ => ⟨nofun, nofun, _, rfl, congrArg (Instr.powRF8 a) (widen_narrow fb), rfl, .nil⟩
theorem powRF16 (a : RegIx) (fb : FloatIx) : Statement (.powRF16 a fb) := fun _ _ => ⟨nofun, nofun, _, rfl, congrArg (Instr.powRF16 a) (widen_narrow fb), rfl, .nil⟩
theorem powRF24 (a : RegIx) (fb : FloatIx) : Statement (.powRF24 a fb) := fun _ _ => ⟨nofun, nofun, _, rfl, congrArg (Instr.powRF24 a) (widen_narrow fb), rfl, .nil⟩
theorem powRF32 (a : RegIx) (fb : FloatIx) : Statement (.powRF32 a fb) := fun _ _ => ⟨nofun, nofun, _, rfl, congrArg (Instr.powRF32 a) (widen_narrow fb), rfl, .nil⟩
theorem powFMr (fb : FloatIx) (a : RegIx) : Statement (.powFMr fb a) := fun _ _ => ⟨nofun, nofun, _, rfl, congrArg (fun x => Instr.powFMr x a) (widen_narrow fb), rfl, .nil⟩
theorem powMrF (a : RegIx) (fb : FloatIx) : Statement (.powMrF a fb) := fun _ _ => ⟨nofun, nofun, _, rfl, congrArg (Instr.powMrF a) (widen_narrow fb), rfl, .nil⟩
theorem powFMa (fa : FloatIx) (addr : Addr) : Statement (.powFMa fa addr) := fun _ _ => ⟨nofun, nofun, _, rfl, congrArg (Instr.powFMa fa) (Fields.imm_zero _ _ _ _ _ _ addr _), rfl, .cons (BitVec.isLt _) .nil⟩
theorem powMaF (addr : Addr) (fa : FloatIx) : Statement (.powMaF addr fa) := fun _ _ => ⟨nofun, nofun, _, rfl, congrArg (fun x => Instr.powMaF x fa) (Fields.imm_zero _ _ _ _ _ _ addr _), rfl, .cons (BitVec.isLt _) .nil⟩
-- SIN
theorem sinFF (fa fb : FloatIx) : Statement (.sinFF fa fb) := fun _ _ => ⟨nofun, nofun, _, rfl, rfl, rfl, .nil⟩
theorem sinFR8 (fb : FloatIx) (a : RegIx) : Statement (.sinFR8 fb a) := fun _ _ => ⟨nofun, nofun, _, rfl, congrArg (fun x => Instr.sinFR8 x a) (widen_narrow fb), rfl, .nil⟩
theorem sinFR16 (fb : FloatIx) (a : RegIx) : Statement (.sinFR16 fb a) := fun _ _ => ⟨nofun, nofun, _, rfl, congrArg (fun x => Instr.sinFR16 x a) (widen_narrow fb), rfl, .nil⟩
theorem sinFR24 (fb : FloatIx) (a : RegIx) : Statement (.sinFR24 fb a) := fun _ _ => ⟨nofun, nofun, _, rfl, congrArg (fun x => Instr.sinFR24 x a) (widen_narrow fb), rfl, .nil⟩
theorem sinFR32 (fb : FloatIx) (a : RegIx) : Statement (.sinFR32 fb a) := fun _ _ => ⟨nofun, nofun, _, rfl, congrArg (fun x => Instr.sinFR32 x a) (widen_narrow fb), rfl, .nil⟩
theorem sinRF8 (a : RegIx) (fb : FloatIx) : Statement (.sinRF8 a fb) := fun _ _ => ⟨nofun, nofun, _, rfl, congrArg (Instr.sinRF8 a) (widen_narrow fb), rfl, .nil⟩
theorem sinRF16 (a : RegIx) (fb : FloatIx) : Statement (.sinRF16 a fb) := fun _ _ => ⟨nofun, nofun, _, rfl, congrArg (Instr.sinRF16 a) (widen_narrow fb), rfl, .nil⟩
theorem sinRF24 (a : RegIx) (fb : FloatIx) : Statement (.sinRF24 a fb) := fun _ _ => ⟨nofun, nofun, _, rfl, congrArg (Instr.sinRF24 a) (widen_narrow fb), rfl, .nil⟩
theorem sinRF32 (a : RegIx) (fb : FloatIx) : Statement (.sinRF32 a fb) := fun _ _ => ⟨nofun, nofun, _, rfl, congrArg (Instr.sinRF32 a) (widen_narrow fb), rfl, .nil⟩
theorem sinFMr (fb : FloatIx) (a : RegIx) : Statement (.sinFMr fb a) := fun _ _ => ⟨nofun, nofun, _, rfl, congrArg (fun x => Instr.sinFMr x a) (widen_narrow fb), rfl, .nil⟩
theorem sinMrF (a : RegIx) (fb : FloatIx) : Statement (.sinMrF a fb) := fun _ _ => ⟨nofun, nofun, _, rfl, congrArg (Instr.sinMrF a) (widen_narrow fb), rfl, .nil⟩
theorem sinFMa (fa : FloatIx) (addr : Addr) : Statement (.sinFMa fa addr) := fun _ _ => ⟨nofun, nofun, _, rfl, congrArg (Instr.sinFMa fa) (Fields.imm_zero _ _ _ _ _ _ addr _), rfl, .cons (BitVec.isLt _) .nil⟩
theorem sinMaF (addr : Addr) (fa : FloatIx) : Statement (.sinMaF addr fa) := fun _ _ => ⟨nofun, nofun, _, rfl, congrArg (fun x => Instr.sinMaF x fa) (Fields.imm_zero _ _ _ _ _ _ addr _), rfl, .cons (BitVec.isLt _) .nil⟩
-- FLOOR
theorem floorFF (fa fb : FloatIx) : Statement (.floorFF fa fb) := fun _ _ => ⟨nofun, nofun, _, rfl, rfl, rfl, .nil⟩
theorem floorFR8 (fb : FloatIx) (a : RegIx) : Statement (.floorFR8 fb a) := fun _ _ => ⟨nofun, nofun, _, rfl, congrArg (fun x => Instr.floorFR8 x a) (widen_narrow fb), rfl, .nil⟩
theorem floorFR16 (fb : FloatIx) (a : RegIx) : Statement (.floorFR16 fb a) := fun _ _ => ⟨nofun, nofun, _, rfl, congrArg (fun x => Instr.floorFR16 x a) (widen_narrow fb), rfl, .nil⟩
theorem floorFR24 (fb : FloatIx) (a : RegIx) : Statement (.floorFR24 fb a) := fun _ _ => ⟨nofun, nofun, _, rfl, congrArg (fun x => Instr.floorFR24 x a) (widen_narrow fb), rfl, .nil⟩
theorem floorFR32 (fb : FloatIx) (a : RegIx) : Statement (.floorFR32 fb a) := fun _ _ => ⟨nofun, nofun, _, rfl, congrArg (fun x => Instr.floorFR32 x a) (widen_narrow fb), rfl, .nil⟩
theorem floorRF8 (a : RegIx) (fb : FloatIx) : Statement (.floorRF8 a fb) := fun _ _ => ⟨nofun, nofun, _, rfl, congrArg (Instr.floorRF8 a) (widen_narrow fb), rfl, .nil⟩
theorem floorRF16 (a : RegIx) (fb : FloatIx) : Statement (.floorRF16 a fb) := fun _ _ => ⟨nofun, nofun, _, rfl, congrArg (Instr.floorRF16 a) (widen_narrow fb), rfl, .nil⟩
theorem floorRF24 (a : RegIx) (fb : FloatIx) : Statement (.floorRF24 a fb) := fun _ _ => ⟨nofun, nofun, _, rfl, congrArg (Instr.floorRF24 a) (widen_narrow fb), rfl, .nil⟩
theorem floorRF32 (a : RegIx) (fb : FloatIx) : Statement (.floorRF32 a fb) := fun _ _ => ⟨nofun, nofun, _, rfl, congrArg (Instr.floorRF32 a) (widen_narrow fb), rfl, .nil⟩
theorem floorFMr (fb : FloatIx) (a : RegIx) : Statement (.floorFMr fb a) := fun _ _ => ⟨nofun, nofun, _, rfl, congrArg (fun x => Instr.floorFMr x a) (widen_narrow fb), rfl, .nil⟩
theorem floorMrF (a : RegIx) (fb : FloatIx) : Statement (.floorMrF a fb) := fun _ _ => ⟨nofun, nofun, _, rfl, congrArg (Instr.floorMrF a) (widen_narrow fb), rfl, .nil⟩
theorem floorFMa (fa : FloatIx) (addr : Addr) : Statement (.floorFMa fa addr) := fun _ _ => ⟨nofun, nofun, _, rfl, congrArg (Instr.floorFMa fa) (Fields.imm_zero _ _ _ _ _ _ addr _), rfl, .cons (BitVec.isLt _) .nil⟩
theorem floorMaF (addr : Addr) (fa : FloatIx) : Statement (.floorMaF addr fa) := fun _ _ => ⟨nofun, nofun, _, rfl, congrArg (fun x => Instr.floorMaF x fa) (Fields.imm_zero _ _ _ _ _ _ addr _), rfl, .cons (BitVec.isLt _) .nil⟩
-- ROUND
theorem roundFF (fa fb : FloatIx) : Statement (.roundFF fa fb) := fun _ _ => ⟨nofun, nofun, _, rfl, rfl, rfl, .nil⟩
theorem roundFR8 (fb : FloatIx) (a : RegIx) : Statement (.roundFR8 fb a) := fun _ _ => ⟨nofun, nofun, _, rfl, congrArg (fun x => Instr.roundFR8 x a) (widen_narrow fb), rfl, .nil⟩
theorem roundFR16 (fb : FloatIx) (a : RegIx) : Statement (.roundFR16 fb a) := fun _ _ => ⟨nofun, nofun, _, rfl, congrArg (fun x => Instr.roundFR16 x a) (widen_narrow fb), rfl, .nil⟩
theorem roundFR24 (fb : FloatIx) (a : RegIx) : Statement (.roundFR24 fb a) := fun _ _ => ⟨nofun, nofun, _, rfl, congrArg (fun x => Instr.roundFR24 x a) (widen_narrow fb), rfl, .nil⟩
theorem roundFR32 (fb : FloatIx) (a : RegIx) : Statement (.roundFR32 fb a) := fun _ _ => ⟨nofun, nofun, _, rfl, congrArg (fun x => Instr.roundFR32 x a) (widen_narrow fb), rfl, .nil⟩
theorem roundRF8 (a : RegIx) (fb : FloatIx) : Statement (.roundRF8 a fb) := fun _ _ => ⟨nofun, nofun, _, rfl, congrArg (Instr.roundRF8 a) (widen_narrow fb), rfl, .nil⟩
theorem roundRF16 (a : RegIx) (fb : FloatIx) : Statement (.roundRF16 a fb) := fun _ _ => ⟨nofun, nofun, _, rfl, congrArg (Instr.roundRF16 a) (widen_narrow fb), rfl, .nil⟩
theorem roundRF24 (a : RegIx) (fb : FloatIx) : Statement (.roundRF24 a fb) := fun _ _ => ⟨nofun, nofun, _, rfl, congrArg (Instr.roundRF24 a) (widen_narrow fb), rfl, .nil⟩
theorem roundRF32 (a : RegIx) (fb : FloatIx) : Statement (.roundRF32 a fb) := fun _ _ => ⟨nofun, nofun, _, rfl, congrArg (Instr.roundRF32 a) (widen_narrow fb), rfl, .nil⟩
theorem roundFMr (fb : FloatIx) (a : RegIx) : Statement (.roundFMr fb a) := fun _ _ => ⟨nofun, nofun, _, rfl, congrArg (fun x => Instr.roundFMr x a) (widen_narrow fb), rfl, .nil⟩
theorem roundMrF (a : RegIx) (fb : FloatIx) : Statement (.roundMrF a fb) := fun _ _ => ⟨nofun, nofun, _, rfl, congrArg (Instr.roundMrF a) (widen_narrow fb), rfl, .nil⟩
theorem roundFMa (fa : FloatIx) (addr : Addr) : Statement (.roundFMa fa addr) := fun _ _ => ⟨nofun, nofun, _, rfl, congrArg (Instr.roundFMa fa) (Fields.imm_zero _ _ _ _ _ _ addr _), rfl, .cons (BitVec.isLt _) .nil⟩
theorem roundMaF (addr : Addr) (fa : FloatIx) : Statement (.roundMaF addr fa) := fun _ _ => ⟨nofun, nofun, _, rfl, congrArg (fun x => Instr.roundMaF x fa) (Fields.imm_zero _ _ _ _ _ _ addr _), rfl, .cons (BitVec.isLt _) .nil⟩
-- MEMC
theorem memcRRR (a b c : RegIx) : Statement (.memcRRR a b c) := fun _ _ => ⟨nofun, nofun, _, rfl, rfl, rfl, .nil⟩
theorem memcRRI (a b : RegIx) (len : BitVec 24) : Statement (.memcRRI a b len) := fun _ _ => ⟨nofun, nofun, _, rfl, congrArg (Instr.memcRRI a b) (Fields.imm_zero _ _ _ _ _ _ len _), rfl, .cons (BitVec.isLt _) .nil⟩
theorem memcRIR (a : RegIx) (dst : BitVec 24) (c : RegIx) : Statement (.memcRIR a dst c) := fun _ _ => ⟨nofun, nofun, _, rfl, congrArg (fun x => Instr.memcRIR a x c) (Fields.imm_zero _ _ _ _ _ _ dst _), rfl, .cons (BitVec.isLt _) .nil⟩
theorem memcRII (a : RegIx) (dst len : BitVec 24) : Statement (.memcRII a dst len) := fun _ _ => ⟨nofun, nofun, _, rfl, congrArg₂ (fun x y => Instr.memcRII a x y) (Fields.imm_zero _ _ _ _ _ _ dst _) (Fields.imm_one _ _ _ _ _ _ _ len _), rfl, .cons (BitVec.isLt _) (.cons (BitVec.isLt _) .nil)⟩
theorem memcIRR (src : BitVec 24) (b c : RegIx) : Statement (.memcIRR src b c) := fun _ _ => ⟨nofun, nofun, _, rfl, congrArg (fun x => Instr.memcIRR x b c) (Fields.imm_zero _ _ _ _ _ _ src _), rfl, .cons (BitVec.isLt _) .nil⟩
theorem memcIRI (src : BitVec 24) (b : RegIx) (len : BitVec 24) : Statement (.memcIRI src b len) := fun _ _ => ⟨nofun, nofun, _, rfl, congrArg₂ (fun x y => Instr.memcIRI x b y) (Fields.imm_zero _ _ _ _ _ _ src _) (Fields.imm_one _ _ _ _ _ _ _ len _), rfl, .cons (BitVec.isLt _) (.cons (BitVec.isLt _) .nil)⟩
theorem memcIIR (src dst : BitVec 24) (c : RegIx) : Statement (.memcIIR src dst c) := fun _ _ => ⟨nofun, nofun, _, rfl, congrArg₂ (fun x y => Instr.memcIIR x y c) (Fields.imm_zero _ _ _ _ _ _ src _) (Fields.imm_one _ _ _ _ _ _ _ dst _), rfl, .cons (BitVec.isLt _) (.cons (BitVec.isLt _) .nil)⟩
theorem memcIII (src dst len : BitVec 24) : Statement (.memcIII src dst len) := fun _ _ => ⟨nofun, nofun, _, rfl, congr (congrArg₂ Instr.memcIII (Fields.imm_zero _ _ _ _ _ _ src _) (Fields.imm_one _ _ _ _ _ _ _ dst _)) (Fields.imm_two _ _ _ _ _ _ _ _ len _), rfl, .cons (BitVec.isLt _) (.cons (BitVec.isLt _) (.cons (BitVec.isLt _) .nil))⟩
-- MEMF
theorem memfRRR (a b c : RegIx) : Statement (.memfRRR a b c) := fun _ _ => ⟨nofun, nofun, _, rfl, rfl, rfl, .nil⟩
theorem memfRRI (a b : RegIx) (len : BitVec 24) : Statement (.memfRRI a b len) := fun _ _ => ⟨nofun, nofun, _, rfl, congrArg (Instr.memfRRI a b) (Fields.imm_zero _ _ _ _ _ _ len _), rfl, .cons (BitVec.isLt _) .nil⟩
theorem memfRIR (a : RegIx) (addr : BitVec 24) (c : RegIx) : Statement (.memfRIR a addr c) := fun _ _ => ⟨nofun, nofun, _, rfl, congrArg (fun x => Instr.memfRIR a x c) (Fields.imm_zero _ _ _ _ _ _ addr _), rfl, .cons (BitVec.isLt _) .nil⟩
theorem memfRII (a : RegIx) (addr len : BitVec 24) : Statement (.memfRII a addr len) := fun _ _ => ⟨nofun, nofun, _, rfl, congrArg₂ (fun x y => Instr.memfRII a x y) (Fields.imm_zero _ _ _ _ _ _ addr _) (Fields.imm_one _ _ _ _ _ _ _ len _), rfl, .cons (BitVec.isLt _) (.cons (BitVec.isLt _) .nil)⟩
theorem memfIRR (val : Byte) (b c : RegIx) : Statement (.memfIRR val b c) := fun _ _ => ⟨nofun, nofun, _, rfl, congrArg (fun x => Instr.memfIRR x b c) (Fields.imm_zero _ _ _ _ _ _ val _), rfl, .cons (BitVec.isLt _) .nil⟩
theorem memfIRI (val : Byte) (b : RegIx) (len : BitVec 24) : Statement (.memfIRI val b len) := fun _ _ => ⟨nofun, nofun, _, rfl, congrArg₂ (fun x y => Instr.memfIRI x b y) (Fields.imm_zero _ _ _ _ _ _ val _) (Fields.imm_one _ _ _ _ _ _ _ len _), rfl, .cons (BitVec.isLt _) (.cons (BitVec.isLt _) .nil)⟩
theorem memfIIR (val : Byte) (addr : BitVec 24) (c : RegIx) : Statement (.memfIIR val addr c) := fun _ _ => ⟨nofun, nofun, _, rfl, congrArg₂ (fun x y => Instr.memfIIR x y c) (Fields.imm_zero _ _ _ _ _ _ val _) (Fields.imm_one _ _ _ _ _ _ _ addr _), rfl, .cons (BitVec.isLt _) (.cons (BitVec.isLt _) .nil)⟩
theorem memfIII (val : Byte) (addr len : BitVec 24) : Statement (.memfIII val addr len) := fun _ _ => ⟨nofun, nofun, _, rfl, congr (congrArg₂ Instr.memfIII (Fields.imm_zero _ _ _ _ _ _ val _) (Fields.imm_one _ _ _ _ _ _ _ addr _)) (Fields.imm_two _ _ _ _ _ _ _ _ len _), rfl, .cons (BitVec.isLt _) (.cons (BitVec.isLt _) (.cons (BitVec.isLt _) .nil))⟩
-- FIND
theorem findBI (a : RegIx) (n : Byte) : Statement (.findBI a n) := fun _ _ => ⟨nofun, nofun, _, rfl, congrArg (Instr.findBI a) (Fields.imm_zero _ _ _ _ _ _ n _), rfl, .cons (BitVec.isLt _) .nil⟩
theorem findBR (a b : RegIx) : Statement (.findBR a b) := fun _ _ => ⟨nofun, nofun, _, rfl, rfl, rfl, .nil⟩
theorem findPA (a : RegIx) (addr : Addr) : Statement (.findPA a addr) := fun _ _ => ⟨nofun, nofun, _, rfl, congrArg (Instr.findPA a) (Fields.imm_zero _ _ _ _ _ _ addr _), rfl, .cons (BitVec.isLt _) .nil⟩
theorem findPR (a b : RegIx) : Statement (.findPR a b) := fun _ _ => ⟨nofun, nofun, _, rfl, rfl, rfl, .nil⟩
-- LDREGS
theorem ldregsMa (a b : RegIx) (addr : Addr) : Statement (.ldregsMa a b addr) := fun _ _ => ⟨nofun, nofun, _, rfl, congrArg (Instr.ldregsMa a b) (Fields.imm_zero _ _ _ _ _ _ addr _), rfl, .cons (BitVec.isLt _) .nil⟩
theorem ldregsMr (a b c : RegIx) : Statement (.ldregsMr a b c) := fun _ _ => ⟨nofun, nofun, _, rfl, rfl, rfl, .nil⟩
-- STREGS
theorem stregsMa (a b : RegIx) (addr : Addr) : Statement (.stregsMa a b addr) := fun _ _ => ⟨nofun, nofun, _, rfl, congrArg (Instr.stregsMa a b) (Fields.imm_zero _ _ _ _ _ _ addr _), rfl, .cons (BitVec.isLt _) .nil⟩
theorem stregsMr (a b c : RegIx) : Statement (.stregsMr a b c) := fun _ _ => ⟨nofun, nofun, _, rfl, rfl, rfl, .nil⟩
-- EX
theorem ex8 (a b : RegIx) : Statement (.ex8 a b) := fun _ _ => ⟨nofun, nofun, _, rfl, rfl, rfl, .nil⟩
theorem ex16 (a b : RegIx) : Statement (.ex16 a b) := fun _ _ => ⟨nofun, nofun, _, rfl, rfl, rfl, .nil⟩
theorem ex24 (a b : RegIx) : Statement (.ex24 a b) := fun _ _ => ⟨nofun, nofun, _, rfl, rfl, rfl, .nil⟩
theorem ex32 (a b : RegIx) : Statement (.ex32 a b) := fun _ _ => ⟨nofun, nofun, _, rfl, rfl, rfl, .nil⟩
-- BANKSEL
theorem bankselI (n : Byte) : Statement (.bankselI n) := fun _ _ => ⟨nofun, nofun, _, rfl, congrArg Instr.bankselI (Fields.imm_zero _ _ _ _ _ _ n _), rfl, .cons (BitVec.isLt _) .nil⟩
theorem bankselR (r : RegIx) : Statement (.bankselR r) := fun _ _ => ⟨nofun, nofun, _, rfl, rfl, rfl, .nil⟩
-- RAND
theorem rand8 (a : RegIx) : Statement (.rand8 a) := fun _ _ => ⟨nofun, nofun, _, rfl, rfl, rfl, .nil⟩
theorem rand16 (a : RegIx) : Statement (.rand16 a) := fun _ _ => ⟨nofun, nofun, _, rfl, rfl, rfl, .nil⟩
theorem rand24 (a : RegIx) : Statement (.rand24 a) := fun _ _ => ⟨nofun, nofun, _, rfl, rfl, rfl, .nil⟩
theorem rand32 (a : RegIx) : Statement (.rand32 a) := fun _ _ => ⟨nofun, nofun, _, rfl, rfl, rfl, .nil⟩
theorem randSeedI (seed : Word) : Statement (.randSeedI seed) := fun _ _ => ⟨nofun, nofun, _, rfl, congrArg Instr.randSeedI (Fields.imm_zero _ _ _ _ _ _ seed _), rfl, .cons (BitVec.isLt _) .nil⟩
theorem randSeedR (a : RegIx) : Statement (.randSeedR a) := fun _ _ => ⟨nofun, nofun, _, rfl, rfl, rfl, .nil⟩
-- WAIT
theorem waitI (ms : BitVec 16) : Statement (.waitI ms) := fun _ _ => ⟨nofun, nofun, _, rfl, congrArg Instr.waitI (Fields.imm_zero _ _ _ _ _ _ ms _), rfl, .cons (BitVec.isLt _) .nil⟩
theorem waitR (r : RegIx) : Statement (.waitR r) := fun _ _ => ⟨nofun, nofun, _, rfl, rfl, rfl, .nil⟩
-- SETVAR
theorem setvarII (index value : Word) : Statement (.setvarII index value) := fun _ _ => ⟨nofun, nofun, _, rfl, congrArg₂ (fun x y => Instr.setvarII x y) (Fields.imm_zero _ _ _ _ _ _ index _) (Fields.imm_one _ _ _ _ _ _ _ value _), rfl, .cons (BitVec.isLt _) (.cons (BitVec.isLt _) .nil)⟩
theorem setvarRI (a : RegIx) (value : Word) : Statement (.setvarRI a value) := fun _ _ => ⟨nofun, nofun, _, rfl, congrArg (Instr.setvarRI a) (Fields.imm_zero _ _ _ _ _ _ value _), rfl, .cons (BitVec.isLt _) .nil⟩
theorem setvarIR (index : Word) (b : RegIx) : Statement (.setvarIR index b) := fun _ _ => ⟨nofun, nofun, _, rfl, congrArg (fun x => Instr.setvarIR x b) (Fields.imm_zero _ _ _ _ _ _ index _), rfl, .cons (BitVec.isLt _) .nil⟩
theorem setvarRR (a b : RegIx) : Statement (.setvarRR a b) := fun _ _ => ⟨nofun, nofun, _, rfl, rfl, rfl, .nil⟩
-- GETVAR
theorem getvarI (a : RegIx) (index : Word) : Statement (.getvarI a index) := fun _ _ => ⟨nofun, nofun, _, rfl, congrArg (Instr.getvarI a) (Fields.imm_zero _ _ _ _ _ _ index _), rfl, .cons (BitVec.isLt _) .nil⟩
theorem getvarR (a b : RegIx) : Statement (.getvarR a b) := fun _ _ => ⟨nofun, nofun, _, rfl, rfl, rfl, .nil⟩
-- SMUL
theorem smulRR8 (a b : RegIx) : Statement (.smulRR8 a b) := fun _ _ => ⟨nofun, nofun, _, rfl, rfl, rfl, .nil⟩
theorem smulRR16 (a b : RegIx) : Statement (.smulRR16 a b) := fun _ _ => ⟨nofun, nofun, _, rfl, rfl, rfl, .nil⟩
theorem smulRR24 (a b : RegIx) : Statement (.smulRR24 a b) := fun _ _ => ⟨nofun, nofun, _, rfl, rfl, rfl, .nil⟩
theorem smulRR32 (a b : RegIx) : Statement (.smulRR32 a b) := fun _ _ => ⟨nofun, nofun, _, rfl, rfl, rfl, .nil⟩
theorem smulRI8 (a : RegIx) (imm : BitVec 8) : Statement (.smulRI8 a imm) := fun _ _ => ⟨nofun, nofun, _, rfl, congrArg (Instr.smulRI8 a) (Fields.imm_zero _ _ _ _ _ _ imm _), rfl, .cons (BitVec.isLt _) .nil⟩
theorem smulRI16 (a : RegIx) (imm : BitVec 16) : Statement (.smulRI16 a imm) := fun _ _ => ⟨nofun, nofun, _, rfl, congrArg (Instr.smulRI16 a) (Fields.imm_zero _ _ _ _ _ _ imm _), rfl, .cons (BitVec.isLt _) .nil⟩
theorem smulRI24 (a : RegIx) (imm : BitVec 24) : Statement (.smulRI24 a imm) := fun _ _ => ⟨nofun, nofun, _, rfl, congrArg (Instr.smulRI24 a) (Fields.imm_zero _ _ _ _ _ _ imm _), rfl, .cons (BitVec.isLt _) .nil⟩
theorem smulRI32 (a : RegIx) (imm : BitVec 32) : Statement (.smulRI32 a imm) := fun _ _ => ⟨nofun, nofun, _, rfl, congrArg (Instr.smulRI32 a) (Fields.imm_zero _ _ _ _ _ _ imm _), rfl, .cons (BitVec.isLt _) .nil⟩
-- PLAY
theorem play : Statement (.play) := fun h => absurd rfl h
-- VCL
theorem vclI (n : Byte) : Statement (.vclI n) := fun _ _ => ⟨nofun, nofun, _, rfl, congrArg Instr.vclI (Fields.imm_zero _ _ _ _ _ _ n _), rfl, .cons (BitVec.isLt _) .nil⟩
theorem vclR (r : RegIx) : Statement (.vclR r) := fun _ _ => ⟨nofun, nofun, _, rfl, rfl, rfl, .nil⟩
-- VDL
theorem vdlI (n : Byte) : Statement (.vdlI n) := fun _ _ => ⟨nofun, nofun, _, rfl, congrArg Instr.vdlI (Fields.imm_zero _ _ _ _ _ _ n _), rfl, .cons (BitVec.isLt _) .nil⟩
theorem vdlR (r : RegIx) : Statement (.vdlR r) := fun _ _ => ⟨nofun, nofun, _, rfl, rfl, rfl, .nil⟩
-- INT
theorem int (r : RegIx) (n arg : Byte) : Statement (.int r n arg) := fun _ _ => ⟨nofun, nofun, _, rfl, congrArg₂ (fun x y => Instr.int r x y) (Fields.imm_zero _ _ _ _ _ _ n _) (Fields.imm_one _ _ _ _ _ _ _ arg _), rfl, .cons (BitVec.isLt _) (.cons (BitVec.isLt _) .nil)⟩
-- BREAK
theorem brk : Statement (.brk) := fun _ h => absurd rfl h

end Encoded

namespace Executed

-- AND
theorem andRR8 (a b : RegIx) : Statement (.andRR8 a b) := fun _ _ h => Done.of_binary rfl id h
theorem andRR16 (a b : RegIx) : Statement (.andRR16 a b) := fun _ _ h => Done.of_binary rfl id h
theorem andRR24 (a b : RegIx) : Statement (.andRR24 a b) := fun _ _ h => Done.of_binary rfl id h
theorem andRR32 (a b : RegIx) : Statement (.andRR32 a b) := fun _ _ h => Done.of_binary rfl id h
theorem andRI8 (a : RegIx) (imm : BitVec 8) : Statement (.andRI8 a imm) := fun _ _ h => Done.of_binary rfl id h
theorem andRI16 (a : RegIx) (imm : BitVec 16) : Statement (.andRI16 a imm) := fun _ _ h => Done.of_binary rfl id h
theorem andRI24 (a : RegIx) (imm : BitVec 24) : Statement (.andRI24 a imm) := fun _ _ h => Done.of_binary rfl id h
theorem andRI32 (a : RegIx) (imm : BitVec 32) : Statement (.andRI32 a imm) := fun _ _ h => Done.of_binary rfl id h
theorem andRMr8 (a b : RegIx) : Statement (.andRMr8 a b) := fun _ _ h => Done.of_binary rfl id h
theorem andRMr16 (a b : RegIx) : Statement (.andRMr16 a b) := fun _ _ h => Done.of_binary rfl id h
theorem andRMr24 (a b : RegIx) : Statement (.andRMr24 a b) := fun _ _ h => Done.of_binary rfl id h
theorem andRMr32 (a b : RegIx) : Statement (.andRMr32 a b) := fun _ _ h => Done.of_binary rfl id h
theorem andRMa8 (a : RegIx) (addr : Addr) : Statement (.andRMa8 a addr) := fun _ _ h => Done.of_binary rfl id h
theorem andRMa16 (a : RegIx) (addr : Addr) : Statement (.andRMa16 a addr) := fun _ _ h => Done.of_binary rfl id h
theorem andRMa24 (a : RegIx) (addr : Addr) : Statement (.andRMa24 a addr) := fun _ _ h => Done.of_binary rfl id h
theorem andRMa32 (a : RegIx) (addr : Addr) : Statement (.andRMa32 a addr) := fun _ _ h => Done.of_binary rfl id h
theorem andMrR8 (a b : RegIx) : Statement (.andMrR8 a b) := fun _ _ h => Done.of_binary rfl id h
theorem andMrR16 (a b : RegIx) : Statement (.andMrR16 a b) := fun _ _ h => Done.of_binary rfl id h
theorem andMrR24 (a b : RegIx) : Statement (.andMrR24 a b) := fun _ _ h => Done.of_binary rfl id h
theorem andMrR32 (a b : RegIx) : Statement (.andMrR32 a b) := fun _ _ h => Done.of_binary rfl id h
theorem andMaR8 (addr : Addr) (a : RegIx) : Statement (.andMaR8 addr a) := fun _ _ h => Done.of_binary rfl id h
theorem andMaR16 (addr : Addr) (a : RegIx) : Statement (.andMaR16 addr a) := fun _ _ h => Done.of_binary rfl id h
theorem andMaR24 (addr : Addr) (a : RegIx) : Statement (.andMaR24 addr a) := fun _ _ h => Done.of_binary rfl id h
theorem andMaR32 (addr : Addr) (a : RegIx) : Statement (.andMaR32 addr a) := fun _ _ h => Done.of_binary rfl id h
theorem andMrI8 (a : RegIx) (imm : BitVec 8) : Statement (.andMrI8 a imm) := fun _ _ h => Done.of_binary rfl id h
theorem andMrI16 (a : RegIx) (imm : BitVec 16) : Statement (.andMrI16 a imm) := fun _ _ h => Done.of_binary rfl id h
theorem andMrI24 (a : RegIx) (imm : BitVec 24) : Statement (.andMrI24 a imm) := fun _ _ h => Done.of_binary rfl id h
theorem andMrI32 (a : RegIx) (imm : BitVec 32) : Statement (.andMrI32 a imm) := fun _ _ h => Done.of_binary rfl id h
theorem andMaI8 (addr : Addr) (imm : BitVec 8) : Statement (.andMaI8 addr imm) := fun _ _ h => Done.of_binary rfl id h
theorem andMaI16 (addr : Addr) (imm : BitVec 16) : Statement (.andMaI16 addr imm) := fun _ _ h => Done.of_binary rfl id h
theorem andMaI24 (addr : Addr) (imm : BitVec 24) : Statement (.andMaI24 addr imm) := fun _ _ h => Done.of_binary rfl id h
theorem andMaI32 (addr : Addr) (imm : BitVec 32) : Statement (.andMaI32 addr imm) := fun _ _ h => Done.of_binary rfl id h
-- OR
theorem orRR8 (a b : RegIx) : Statement (.orRR8 a b) := fun _ _ h => Done.of_binary rfl id h
theorem orRR16 (a b : RegIx) : Statement (.orRR16 a b) := fun _ _ h => Done.of_binary rfl id h
theorem orRR24 (a b : RegIx) : Statement (.orRR24 a b) := fun _ _ h => Done.of_binary rfl id h
theorem orRR32 (a b : RegIx) : Statement (.orRR32 a b) := fun _ _ h => Done.of_binary rfl id h
theorem orRI8 (a : RegIx) (imm : BitVec 8) : Statement (.orRI8 a imm) := fun _ _ h => Done.of_binary rfl id h
theorem orRI16 (a : RegIx) (imm : BitVec 16) : Statement (.orRI16 a imm) := fun _ _ h => Done.of_binary rfl id h
theorem orRI24 (a : RegIx) (imm : BitVec 24) : Statement (.orRI24 a imm) := fun _ _ h => Done.of_binary rfl id h
theorem orRI32 (a : RegIx) (imm : BitVec 32) : Statement (.orRI32 a imm) := fun _ _ h => Done.of_binary rfl id h
theorem orRMr8 (a b : RegIx) : Statement (.orRMr8 a b) := fun _ _ h => Done.of_binary rfl id h
theorem orRMr16 (a b : RegIx) : Statement (.orRMr16 a b) := fun _ _ h => Done.of_binary rfl id h
theorem orRMr24 (a b : RegIx) : Statement (.orRMr24 a b) := fun _ _ h => Done.of_binary rfl id h
theorem orRMr32 (a b : RegIx) : Statement (.orRMr32 a b) := fun _ _ h => Done.of_binary rfl id h
theorem orRMa8 (a : RegIx) (addr : Addr) : Statement (.orRMa8 a addr) := fun _ _ h => Done.of_binary rfl id h
theorem orRMa16 (a : RegIx) (addr : Addr) : Statement (.orRMa16 a addr) := fun _ _ h => Done.of_binary rfl id h
theorem orRMa24 (a : RegIx) (addr : Addr) : Statement (.orRMa24 a addr) := fun _ _ h => Done.of_binary rfl id h
theorem orRMa32 (a : RegIx) (addr : Addr) : Statement (.orRMa32 a addr) := fun _ _ h => Done.of_binary rfl id h
theorem orMrR8 (a b : RegIx) : Statement (.orMrR8 a b) := fun _ _ h => Done.of_binary rfl id h
theorem orMrR16 (a b : RegIx) : Statement (.orMrR16 a b) := fun _ _ h => Done.of_binary rfl id h
theorem orMrR24 (a b : RegIx) : Statement (.orMrR24 a b) := fun _ _ h => Done.of_binary rfl id h
theorem orMrR32 (a b : RegIx) : Statement (.orMrR32 a b) := fun _ _ h => Done.of_binary rfl id h
theorem orMaR8 (addr : Addr) (a : RegIx) : Statement (.orMaR8 addr a) := fun _ _ h => Done.of_binary rfl id h
theorem orMaR16 (addr : Addr) (a : RegIx) : Statement (.orMaR16 addr a) := fun _ _ h => Done.of_binary rfl id h
theorem orMaR24 (addr : Addr) (a : RegIx) : Statement (.orMaR24 addr a) := fun _ _ h => Done.of_binary rfl id h
theorem orMaR32 (addr : Addr) (a : RegIx) : Statement (.orMaR32 addr a) := fun _ _ h => Done.of_binary rfl id h
theorem orMrI8 (a : RegIx) (imm : BitVec 8) : Statement (.orMrI8 a imm) := fun _ _ h => Done.of_binary rfl id h
theorem orMrI16 (a : RegIx) (imm : BitVec 16) : Statement (.orMrI16 a imm) := fun _ _ h => Done.of_binary rfl id h
theorem orMrI24 (a : RegIx) (imm : BitVec 24) : Statement (.orMrI24 a imm) := fun _ _ h => Done.of_binary rfl id h
theorem orMrI32 (a : RegIx) (imm : BitVec 32) : Statement (.orMrI32 a imm) := fun _ _ h => Done.of_binary rfl id h
theorem orMaI8 (addr : Addr) (imm : BitVec 8) : Statement (.orMaI8 addr imm) := fun _ _ h => Done.of_binary rfl id h
theorem orMaI16 (addr : Addr) (imm : BitVec 16) : Statement (.orMaI16 addr imm) := fun _ _ h => Done.of_binary rfl id h
theorem orMaI24 (addr : Addr) (imm : BitVec 24) : Statement (.orMaI24 addr imm) := fun _ _ h => Done.of_binary rfl id h
theorem orMaI32 (addr : Addr) (imm : BitVec 32) : Statement (.orMaI32 addr imm) := fun _ _ h => Done.of_binary rfl id h
-- XOR
theorem xorRR8 (a b : RegIx) : Statement (.xorRR8 a b) := fun _ _ h => Done.of_binary rfl id h
theorem xorRR16 (a b : RegIx) : Statement (.xorRR16 a b) := fun _ _ h => Done.of_binary rfl id h
theorem xorRR24 (a b : RegIx) : Statement (.xorRR24 a b) := fun _ _ h => Done.of_binary rfl id h
theorem xorRR32 (a b : RegIx) : Statement (.xorRR32 a b) := fun _ _ h => Done.of_binary rfl id h
theorem xorRI8 (a : RegIx) (imm : BitVec 8) : Statement (.xorRI8 a imm) := fun _ _ h => Done.of_binary rfl id h
theorem xorRI16 (a : RegIx) (imm : BitVec 16) : Statement (.xorRI16 a imm) := fun _ _ h => Done.of_binary rfl id h
theorem xorRI24 (a : RegIx) (imm : BitVec 24) : Statement (.xorRI24 a imm) := fun _ _ h => Done.of_binary rfl id h
theorem xorRI32 (a : RegIx) (imm : BitVec 32) : Statement (.xorRI32 a imm) := fun _ _ h => Done.of_binary rfl id h
theorem xorRMr8 (a b : RegIx) : Statement (.xorRMr8 a b) := fun _ _ h => Done.of_binary rfl id h
theorem xorRMr16 (a b : RegIx) : Statement (.xorRMr16 a b) := fun _ _ h => Done.of_binary rfl id h
theorem xorRMr24 (a b : RegIx) : Statement (.xorRMr24 a b) := fun _ _ h => Done.of_binary rfl id h
theorem xorRMr32 (a b : RegIx) : Statement (.xorRMr32 a b) := fun _ _ h => Done.of_binary rfl id h
theorem xorRMa8 (a : RegIx) (addr : Addr) : Statement (.xorRMa8 a addr) := fun _ _ h => Done.of_binary rfl id h
theorem xorRMa16 (a : RegIx) (addr : Addr) : Statement (.xorRMa16 a addr) := fun _ _ h => Done.of_binary rfl id h
theorem xorRMa24 (a : RegIx) (addr : Addr) : Statement (.xorRMa24 a addr) := fun _ _ h => Done.of_binary rfl id h
theorem xorRMa32 (a : RegIx) (addr : Addr) : Statement (.xorRMa32 a addr) := fun _ _ h => Done.of_binary rfl id h
theorem xorMrR8 (a b : RegIx) : Statement (.xorMrR8 a b) := fun _ _ h => Done.of_binary rfl id h
theorem xorMrR16 (a b : RegIx) : Statement (.xorMrR16 a b) := fun _ _ h => Done.of_binary rfl id h
theorem xorMrR24 (a b : RegIx) : Statement (.xorMrR24 a b) := fun _ _ h => Done.of_binary rfl id h
theorem xorMrR32 (a b : RegIx) : Statement (.xorMrR32 a b) := fun _ _ h => Done.of_binary rfl id h
theorem xorMaR8 (addr : Addr) (a : RegIx) : Statement (.xorMaR8 addr a) := fun _ _ h => Done.of_binary rfl id h
theorem xorMaR16 (addr : Addr) (a : RegIx) : Statement (.xorMaR16 addr a) := fun _ _ h => Done.of_binary rfl id h
theorem xorMaR24 (addr : Addr) (a : RegIx) : Statement (.xorMaR24 addr a) := fun _ _ h => Done.of_binary rfl id h
theorem xorMaR32 (addr : Addr) (a : RegIx) : Statement (.xorMaR32 addr a) := fun _ _ h => Done.of_binary rfl id h
theorem xorMrI8 (a : RegIx) (imm : BitVec 8) : Statement (.xorMrI8 a imm) := fun _ _ h => Done.of_binary rfl id h
theorem xorMrI16 (a : RegIx) (imm : BitVec 16) : Statement (.xorMrI16 a imm) := fun _ _ h => Done.of_binary rfl id h
theorem xorMrI24 (a : RegIx) (imm : BitVec 24) : Statement (.xorMrI24 a imm) := fun _ _ h => Done.of_binary rfl id h
theorem xorMrI32 (a : RegIx) (imm : BitVec 32) : Statement (.xorMrI32 a imm) := fun _ _ h => Done.of_binary rfl id h
theorem xorMaI8 (addr : Addr) (imm : BitVec 8) : Statement (.xorMaI8 addr imm) := fun _ _ h => Done.of_binary rfl id h
theorem xorMaI16 (addr : Addr) (imm : BitVec 16) : Statement (.xorMaI16 addr imm) := fun _ _ h => Done.of_binary rfl id h
theorem xorMaI24 (addr : Addr) (imm : BitVec 24) : Statement (.xorMaI24 addr imm) := fun _ _ h => Done.of_binary rfl id h
theorem xorMaI32 (addr : Addr) (imm : BitVec 32) : Statement (.xorMaI32 addr imm) := fun _ _ h => Done.of_binary rfl id h
-- NOR
theorem norRR8 (a b : RegIx) : Statement (.norRR8 a b) := fun _ _ h => Done.of_binary rfl id h
theorem norRR16 (a b : RegIx) : Statement (.norRR16 a b) := fun _ _ h => Done.of_binary rfl id h
theorem norRR24 (a b : RegIx) : Statement (.norRR24 a b) := fun _ _ h => Done.of_binary rfl id h
theorem norRR32 (a b : RegIx) : Statement (.norRR32 a b) := fun _ _ h => Done.of_binary rfl id h
theorem norRI8 (a : RegIx) (imm : BitVec 8) : Statement (.norRI8 a imm) := fun _ _ h => Done.of_binary rfl id h
theorem norRI16 (a : RegIx) (imm : BitVec 16) : Statement (.norRI16 a imm) := fun _ _ h => Done.of_binary rfl id h
theorem norRI24 (a : RegIx) (imm : BitVec 24) : Statement (.norRI24 a imm) := fun _ _ h => Done.of_binary rfl id h
theorem norRI32 (a : RegIx) (imm : BitVec 32) : Statement (.norRI32 a imm) := fun _ _ h => Done.of_binary rfl id h
theorem norRMr8 (a b : RegIx) : Statement (.norRMr8 a b) := fun _ _ h => Done.of_binary rfl id h
theorem norRMr16 (a b : RegIx) : Statement (.norRMr16 a b) := fun _ _ h => Done.of_binary rfl id h
theorem norRMr24 (a b : RegIx) : Statement (.norRMr24 a b) := fun _ _ h => Done.of_binary rfl id h
theorem norRMr32 (a b : RegIx) : Statement (.norRMr32 a b) := fun _ _ h => Done.of_binary rfl id h
theorem norRMa8 (a : RegIx) (addr : Addr) : Statement (.norRMa8 a addr) := fun _ _ h => Done.of_binary rfl id h
theorem norRMa16 (a : RegIx) (addr : Addr) : Statement (.norRMa16 a addr) := fun _ _ h => Done.of_binary rfl id h
theorem norRMa24 (a : RegIx) (addr : Addr) : Statement (.norRMa24 a addr) := fun _ _ h => Done.of_binary rfl id h
theorem norRMa32 (a : RegIx) (addr : Addr) : Statement (.norRMa32 a addr) := fun _ _ h => Done.of_binary rfl id h
theorem norMrR8 (a b : RegIx) : Statement (.norMrR8 a b) := fun _ _ h => Done.of_binary rfl id h
theorem norMrR16 (a b : RegIx) : Statement (.norMrR16 a b) := fun _ _ h => Done.of_binary rfl id h
theorem norMrR24 (a b : RegIx) : Statement (.norMrR24 a b) := fun _ _ h => Done.of_binary rfl id h
theorem norMrR32 (a b : RegIx) : Statement (.norMrR32 a b) := fun _ _ h => Done.of_binary rfl id h
theorem norMaR8 (addr : Addr) (a : RegIx) : Statement (.norMaR8 addr a) := fun _ _ h => Done.of_binary rfl id h
theorem norMaR16 (addr : Addr) (a : RegIx) : Statement (.norMaR16 addr a) := fun _ _ h => Done.of_binary rfl id h
theorem norMaR24 (addr : Addr) (a : RegIx) : Statement (.norMaR24 addr a) := fun _ _ h => Done.of_binary rfl id h
theorem norMaR32 (addr : Addr) (a : RegIx) : Statement (.norMaR32 addr a) := fun _ _ h => Done.of_binary rfl id h
theorem norMrI8 (a : RegIx) (imm : BitVec 8) : Statement (.norMrI8 a imm) := fun _ _ h => Done.of_binary rfl id h
theorem norMrI16 (a : RegIx) (imm : BitVec 16) : Statement (.norMrI16 a imm) := fun _ _ h => Done.of_binary rfl id h
theorem norMrI24 (a : RegIx) (imm : BitVec 24) : Statement (.norMrI24 a imm) := fun _ _ h => Done.of_binary rfl id h
theorem norMrI32 (a : RegIx) (imm : BitVec 32) : Statement (.norMrI32 a imm) := fun _ _ h => Done.of_binary rfl id h
theorem norMaI8 (addr : Addr) (imm : BitVec 8) : Statement (.norMaI8 addr imm) := fun _ _ h => Done.of_binary rfl id h
theorem norMaI16 (addr : Addr) (imm : BitVec 16) : Statement (.norMaI16 addr imm) := fun _ _ h => Done.of_binary rfl id h
theorem norMaI24 (addr : Addr) (imm : BitVec 24) : Statement (.norMaI24 addr imm) := fun _ _ h => Done.of_binary rfl id h
theorem norMaI32 (addr : Addr) (imm : BitVec 32) : Statement (.norMaI32 addr imm) := fun _ _ h => Done.of_binary rfl id h
-- MIN
theorem minRR8 (a b : RegIx) : Statement (.minRR8 a b) := fun _ _ h => Done.of_binary rfl id h
theorem minRR16 (a b : RegIx) : Statement (.minRR16 a b) := fun _ _ h => Done.of_binary rfl id h
theorem minRR24 (a b : RegIx) : Statement (.minRR24 a b) := fun _ _ h => Done.of_binary rfl id h
theorem minRR32 (a b : RegIx) : Statement (.minRR32 a b) := fun _ _ h => Done.of_binary rfl id h
theorem minRI8 (a : RegIx) (imm : BitVec 8) : Statement (.minRI8 a imm) := fun _ _ h => Done.of_binary rfl id h
theorem minRI16 (a : RegIx) (imm : BitVec 16) : Statement (.minRI16 a imm) := fun _ _ h => Done.of_binary rfl id h
theorem minRI24 (a : RegIx) (imm : BitVec 24) : Statement (.minRI24 a imm) := fun _ _ h => Done.of_binary rfl id h
theorem minRI32 (a : RegIx) (imm : BitVec 32) : Statement (.minRI32 a imm) := fun _ _ h => Done.of_binary rfl id h
theorem minRMr8 (a b : RegIx) : Statement (.minRMr8 a b) := fun _ _ h => Done.of_binary rfl id h
theorem minRMr16 (a b : RegIx) : Statement (.minRMr16 a b) := fun _ _ h => Done.of_binary rfl id h
theorem minRMr24 (a b : RegIx) : Statement (.minRMr24 a b) := fun _ _ h => Done.of_binary rfl id h
theorem minRMr32 (a b : RegIx) : Statement (.minRMr32 a b) := fun _ _ h => Done.of_binary rfl id h
theorem minRMa8 (a : RegIx) (addr : Addr) : Statement (.minRMa8 a addr) := fun _ _ h => Done.of_binary rfl id h
theorem minRMa16 (a : RegIx) (addr : Addr) : Statement (.minRMa16 a addr) := fun _ _ h => Done.of_binary rfl id h
theorem minRMa24 (a : RegIx) (addr : Addr) : Statement (.minRMa24 a addr) := fun _ _ h => Done.of_binary rfl id h
theorem minRMa32 (a : RegIx) (addr : Addr) : Statement (.minRMa32 a addr) := fun _ _ h => Done.of_binary rfl id h
theorem minMrR8 (a b : RegIx) : Statement (.minMrR8 a b) := fun _ _ h => Done.of_binary rfl id h
theorem minMrR16 (a b : RegIx) : Statement (.minMrR16 a b) := fun _ _ h => Done.of_binary rfl id h
theorem minMrR24 (a b : RegIx) : Statement (.minMrR24 a b) := fun _ _ h => Done.of_binary rfl id h
theorem minMrR32 (a b : RegIx) : Statement (.minMrR32 a b) := fun _ _ h => Done.of_binary rfl id h
theorem minMaR8 (addr : Addr) (a : RegIx) : Statement (.minMaR8 addr a) := fun _ _ h => Done.of_binary rfl id h
theorem minMaR16 (addr : Addr) (a : RegIx) : Statement (.minMaR16 addr a) := fun _ _ h => Done.of_binary rfl id h
theorem minMaR24 (addr : Addr) (a : RegIx) : Statement (.minMaR24 addr a) := fun _ _ h => Done.of_binary rfl id h
theorem minMaR32 (addr : Addr) (a : RegIx) : Statement (.minMaR32 addr a) := fun _ _ h => Done.of_binary rfl id h
theorem minMrI8 (a : RegIx) (imm : BitVec 8) : Statement (.minMrI8 a imm) := fun _ _ h => Done.of_binary rfl id h
theorem minMrI16 (a : RegIx) (imm : BitVec 16) : Statement (.minMrI16 a imm) := fun _ _ h => Done.of_binary rfl id h
theorem minMrI24 (a : RegIx) (imm : BitVec 24) : Statement (.minMrI24 a imm) := fun _ _ h => Done.of_binary rfl id h
theorem minMrI32 (a : RegIx) (imm : BitVec 32) : Statement (.minMrI32 a imm) := fun _ _ h => Done.of_binary rfl id h
theorem minMaI8 (addr : Addr) (imm : BitVec 8) : Statement (.minMaI8 addr imm) := fun _ _ h => Done.of_binary rfl id h
theorem minMaI16 (addr : Addr) (imm : BitVec 16) : Statement (.minMaI16 addr imm) := fun _ _ h => Done.of_binary rfl id h
theorem minMaI24 (addr : Addr) (imm : BitVec 24) : Statement (.minMaI24 addr imm) := fun _ _ h => Done.of_binary rfl id h
theorem minMaI32 (addr : Addr) (imm : BitVec 32) : Statement (.minMaI32 addr imm) := fun _ _ h => Done.of_binary rfl id h
theorem minRF8 (a : RegIx) (fb : FloatIx) : Statement (.minRF8 a fb) := fun _ _ h => Done.of_pickFloat rfl id h
theorem minRF16 (a : RegIx) (fb : FloatIx) : Statement (.minRF16 a fb) := fun _ _ h => Done.of_pickFloat rfl id h
theorem minRF24 (a : RegIx) (fb : FloatIx) : Statement (.minRF24 a fb) := fun _ _ h => Done.of_pickFloat rfl id h
theorem minRF32 (a : RegIx) (fb : FloatIx) : Statement (.minRF32 a fb) := fun _ _ h => Done.of_pickFloat rfl id h
theorem minFF (fa fb : FloatIx) : Statement (.minFF fa fb) := fun _ _ h => Done.of_binaryFloat rfl id h
-- MAX
theorem maxRR8 (a b : RegIx) : Statement (.maxRR8 a b) := fun _ _ h => Done.of_binary rfl id h
theorem maxRR16 (a b : RegIx) : Statement (.maxRR16 a b) := fun _ _ h => Done.of_binary rfl id h
theorem maxRR24 (a b : RegIx) : Statement (.maxRR24 a b) := fun _ _ h => Done.of_binary rfl id h
theorem maxRR32 (a b : RegIx) : Statement (.maxRR32 a b) := fun _ _ h => Done.of_binary rfl id h
theorem maxRI8 (a : RegIx) (imm : BitVec 8) : Statement (.maxRI8 a imm) := fun _ _ h => Done.of_binary rfl id h
theorem maxRI16 (a : RegIx) (imm : BitVec 16) : Statement (.maxRI16 a imm) := fun _ _ h => Done.of_binary rfl id h
theorem maxRI24 (a : RegIx) (imm : BitVec 24) : Statement (.maxRI24 a imm) := fun _ _ h => Done.of_binary rfl id h
theorem maxRI32 (a : RegIx) (imm : BitVec 32) : Statement (.maxRI32 a imm) := fun _ _ h => Done.of_binary rfl id h
theorem maxRMr8 (a b : RegIx) : Statement (.maxRMr8 a b) := fun _ _ h => Done.of_binary rfl id h
theorem maxRMr16 (a b : RegIx) : Statement (.maxRMr16 a b) := fun _ _ h => Done.of_binary rfl id h
theorem maxRMr24 (a b : RegIx) : Statement (.maxRMr24 a b) := fun _ _ h => Done.of_binary rfl id h
theorem maxRMr32 (a b : RegIx) : Statement (.maxRMr32 a b) := fun _ _ h => Done.of_binary rfl id h
theorem maxRMa8 (a : RegIx) (addr : Addr) : Statement (.maxRMa8 a addr) := fun _ _ h => Done.of_binary rfl id h
theorem maxRMa16 (a : RegIx) (addr : Addr) : Statement (.maxRMa16 a addr) := fun _ _ h => Done.of_binary rfl id h
theorem maxRMa24 (a : RegIx) (addr : Addr) : Statement (.maxRMa24 a addr) := fun _ _ h => Done.of_binary rfl id h
theorem maxRMa32 (a : RegIx) (addr : Addr) : Statement (.maxRMa32 a addr) := fun _ _ h => Done.of_binary rfl id h
theorem maxMrR8 (a b : RegIx) : Statement (.maxMrR8 a b) := fun _ _ h => Done.of_binary rfl id h
theorem maxMrR16 (a b : RegIx) : Statement (.maxMrR16 a b) := fun _ _ h => Done.of_binary rfl id h
theorem maxMrR24 (a b : RegIx) : Statement (.maxMrR24 a b) := fun _ _ h => Done.of_binary rfl id h
theorem maxMrR32 (a b : RegIx) : Statement (.maxMrR32 a b) := fun _ _ h => Done.of_binary rfl id h
theorem maxMaR8 (addr : Addr) (a : RegIx) : Statement (.maxMaR8 addr a) := fun _ _ h => Done.of_binary rfl id h
theorem maxMaR16 (addr : Addr) (a : RegIx) : Statement (.maxMaR16 addr a) := fun _ _ h => Done.of_binary rfl id h
theorem maxMaR24 (addr : Addr) (a : RegIx) : Statement (.maxMaR24 addr a) := fun _ _ h => Done.of_binary rfl id h
theorem maxMaR32 (addr : Addr) (a : RegIx) : Statement (.maxMaR32 addr a) := fun _ _ h => Done.of_binary rfl id h
theorem maxMrI8 (a : RegIx) (imm : BitVec 8) : Statement (.maxMrI8 a imm) := fun _ _ h => Done.of_binary rfl id h
theorem maxMrI16 (a : RegIx) (imm : BitVec 16) : Statement (.maxMrI16 a imm) := fun _ _ h => Done.of_binary rfl id h
theorem maxMrI24 (a : RegIx) (imm : BitVec 24) : Statement (.maxMrI24 a imm) := fun _ _ h => Done.of_binary rfl id h
theorem maxMrI32 (a : RegIx) (imm : BitVec 32) : Statement (.maxMrI32 a imm) := fun _ _ h => Done.of_binary rfl id h
theorem maxMaI8 (addr : Addr) (imm : BitVec 8) : Statement (.maxMaI8 addr imm) := fun _ _ h => Done.of_binary rfl id h
theorem maxMaI16 (addr : Addr) (imm : BitVec 16) : Statement (.maxMaI16 addr imm) := fun _ _ h => Done.of_binary rfl id h
theorem maxMaI24 (addr : Addr) (imm : BitVec 24) : Statement (.maxMaI24 addr imm) := fun _ _ h => Done.of_binary rfl id h
theorem maxMaI32 (addr : Addr) (imm : BitVec 32) : Statement (.maxMaI32 addr imm) := fun _ _ h => Done.of_binary rfl id h
theorem maxRF8 (a : RegIx) (fb : FloatIx) : Statement (.maxRF8 a fb) := fun _ _ h => Done.of_pickFloat rfl id h
theorem maxRF16 (a : RegIx) (fb : FloatIx) : Statement (.maxRF16 a fb) := fun _ _ h => Done.of_pickFloat rfl id h
theorem maxRF24 (a : RegIx) (fb : FloatIx) : Statement (.maxRF24 a fb) := fun _ _ h => Done.of_pickFloat rfl id h
theorem maxRF32 (a : RegIx) (fb : FloatIx) : Statement (.maxRF32 a fb) := fun _ _ h => Done.of_pickFloat rfl id h
theorem maxFF (fa fb : FloatIx) : Statement (.maxFF fa fb) := fun _ _ h => Done.of_binaryFloat rfl id h
-- INC
theorem incR8 (a : RegIx) : Statement (.incR8 a) := fun _ _ h => Done.of_modify rfl id h
theorem incR16 (a : RegIx) : Statement (.incR16 a) := fun _ _ h => Done.of_modify rfl id h
theorem incR24 (a : RegIx) : Statement (.incR24 a) := fun _ _ h => Done.of_modify rfl id h
theorem incR32 (a : RegIx) : Statement (.incR32 a) := fun _ _ h => Done.of_modify rfl id h
theorem incMr8 (a : RegIx) : Statement (.incMr8 a) := fun _ _ h => Done.of_modify rfl id h
theorem incMr16 (a : RegIx) : Statement (.incMr16 a) := fun _ _ h => Done.of_modify rfl id h
theorem incMr24 (a : RegIx) : Statement (.incMr24 a) := fun _ _ h => Done.of_modify rfl id h
theorem incMr32 (a : RegIx) : Statement (.incMr32 a) := fun _ _ h => Done.of_modify rfl id h
theorem incMa8 (addr : Addr) : Statement (.incMa8 addr) := fun _ _ h => Done.of_modify rfl id h
theorem incMa16 (addr : Addr) : Statement (.incMa16 addr) := fun _ _ h => Done.of_modify rfl id h
theorem incMa24 (addr : Addr) : Statement (.incMa24 addr) := fun _ _ h => Done.of_modify rfl id h
theorem incMa32 (addr : Addr) : Statement (.incMa32 addr) := fun _ _ h => Done.of_modify rfl id h
-- DEC
theorem decR8 (a : RegIx) : Statement (.decR8 a) := fun _ _ h => Done.of_modify rfl id h
theorem decR16 (a : RegIx) : Statement (.decR16 a) := fun _ _ h => Done.of_modify rfl id h
theorem decR24 (a : RegIx) : Statement (.decR24 a) := fun _ _ h => Done.of_modify rfl id h
theorem decR32 (a : RegIx) : Statement (.decR32 a) := fun _ _ h => Done.of_modify rfl id h
theorem decMr8 (a : RegIx) : Statement (.decMr8 a) := fun _ _ h => Done.of_modify rfl id h
theorem decMr16 (a : RegIx) : Statement (.decMr16 a) := fun _ _ h => Done.of_modify rfl id h
theorem decMr24 (a : RegIx) : Statement (.decMr24 a) := fun _ _ h => Done.of_modify rfl id h
theorem decMr32 (a : RegIx) : Statement (.decMr32 a) := fun _ _ h => Done.of_modify rfl id h
theorem decMa8 (addr : Addr) : Statement (.decMa8 addr) := fun _ _ h => Done.of_modify rfl id h
theorem decMa16 (addr : Addr) : Statement (.decMa16 addr) := fun _ _ h => Done.of_modify rfl id h
theorem decMa24 (addr : Addr) : Statement (.decMa24 addr) := fun _ _ h => Done.of_modify rfl id h
theorem decMa32 (addr : Addr) : Statement (.decMa32 addr) := fun _ _ h => Done.of_modify rfl id h
-- INV
theorem invR8 (a : RegIx) : Statement (.invR8 a) := fun _ _ h => Done.of_inv h
theorem invR16 (a : RegIx) : Statement (.invR16 a) := fun _ _ h => Done.of_inv h
theorem invR24 (a : RegIx) : Statement (.invR24 a) := fun _ _ h => Done.of_inv h
theorem invR32 (a : RegIx) : Statement (.invR32 a) := fun _ _ h => Done.of_inv h
-- SL
theorem slI8 (a : RegIx) (n : Byte) : Statement (.slI8 a n) := fun _ _ h => Done.of_shiftBy rfl id h
theorem slI16 (a : RegIx) (n : Byte) : Statement (.slI16 a n) := fun _ _ h => Done.of_shiftBy rfl id h
theorem slI24 (a : RegIx) (n : Byte) : Statement (.slI24 a n) := fun _ _ h => Done.of_shiftBy rfl id h
theorem slI32 (a : RegIx) (n : Byte) : Statement (.slI32 a n) := fun _ _ h => Done.of_shiftBy rfl id h
theorem slR8 (a b : RegIx) : Statement (.slR8 a b) := fun _ _ h => Done.of_shiftBy rfl id h
theorem slR16 (a b : RegIx) : Statement (.slR16 a b) := fun _ _ h => Done.of_shiftBy rfl id h
theorem slR24 (a b : RegIx) : Statement (.slR24 a b) := fun _ _ h => Done.of_shiftBy rfl id h
theorem slR32 (a b : RegIx) : Statement (.slR32 a b) := fun _ _ h => Done.of_shiftBy rfl id h
-- SR
theorem srI8 (a : RegIx) (n : Byte) : Statement (.srI8 a n) := fun _ _ h => Done.of_shiftBy rfl id h
theorem srI16 (a : RegIx) (n : Byte) : Statement (.srI16 a n) := fun _ _ h => Done.of_shiftBy rfl id h
theorem srI24 (a : RegIx) (n : Byte) : Statement (.srI24 a n) := fun _ _ h => Done.of_shiftBy rfl id h
theorem srI32 (a : RegIx) (n : Byte) : Statement (.srI32 a n) := fun _ _ h => Done.of_shiftBy rfl id h
theorem srR8 (a b : RegIx) : Statement (.srR8 a b) := fun _ _ h => Done.of_shiftBy rfl id h
theorem srR16 (a b : RegIx) : Statement (.srR16 a b) := fun _ _ h => Done.of_shiftBy rfl id h
theorem srR24 (a b : RegIx) : Statement (.srR24 a b) := fun _ _ h => Done.of_shiftBy rfl id h
theorem srR32 (a b : RegIx) : Statement (.srR32 a b) := fun _ _ h => Done.of_shiftBy rfl id h
-- RL
theorem rlI8 (a : RegIx) (n : Byte) : Statement (.rlI8 a n) := fun _ _ h => Done.of_shiftBy rfl id h
theorem rlI16 (a : RegIx) (n : Byte) : Statement (.rlI16 a n) := fun _ _ h => Done.of_shiftBy rfl id h
theorem rlI24 (a : RegIx) (n : Byte) : Statement (.rlI24 a n) := fun _ _ h => Done.of_shiftBy rfl id h
theorem rlI32 (a : RegIx) (n : Byte) : Statement (.rlI32 a n) := fun _ _ h => Done.of_shiftBy rfl id h
theorem rlR8 (a b : RegIx) : Statement (.rlR8 a b) := fun _ _ h => Done.of_shiftBy rfl id h
theorem rlR16 (a b : RegIx) : Statement (.rlR16 a b) := fun _ _ h => Done.of_shiftBy rfl id h
theorem rlR24 (a b : RegIx) : Statement (.rlR24 a b) := fun _ _ h => Done.of_shiftBy rfl id h
theorem rlR32 (a b : RegIx) : Statement (.rlR32 a b) := fun _ _ h => Done.of_shiftBy rfl id h
-- RR
theorem rrI8 (a : RegIx) (n : Byte) : Statement (.rrI8 a n) := fun _ _ h => Done.of_shiftBy rfl id h
theorem rrI16 (a : RegIx) (n : Byte) : Statement (.rrI16 a n) := fun _ _ h => Done.of_shiftBy rfl id h
theorem rrI24 (a : RegIx) (n : Byte) : Statement (.rrI24 a n) := fun _ _ h => Done.of_shiftBy rfl id h
theorem rrI32 (a : RegIx) (n : Byte) : Statement (.rrI32 a n) := fun _ _ h => Done.of_shiftBy rfl id h
theorem rrR8 (a b : RegIx) : Statement (.rrR8 a b) := fun _ _ h => Done.of_shiftBy rfl id h
theorem rrR16 (a b : RegIx) : Statement (.rrR16 a b) := fun _ _ h => Done.of_shiftBy rfl id h
theorem rrR24 (a b : RegIx) : Statement (.rrR24 a b) := fun _ _ h => Done.of_shiftBy rfl id h
theorem rrR32 (a b : RegIx) : Statement (.rrR32 a b) := fun _ _ h => Done.of_shiftBy rfl id h
-- SET
theorem setI8 (a : RegIx) (n : Byte) : Statement (.setI8 a n) := fun _ _ h => Done.of_shiftBy rfl id h
theorem setI16 (a : RegIx) (n : Byte) : Statement (.setI16 a n) := fun _ _ h => Done.of_shiftBy rfl id h
theorem setI24 (a : RegIx) (n : Byte) : Statement (.setI24 a n) := fun _ _ h => Done.of_shiftBy rfl id h
theorem setI32 (a : RegIx) (n : Byte) : Statement (.setI32 a n) := fun _ _ h => Done.of_shiftBy rfl id h
theorem setR8 (a b : RegIx) : Statement (.setR8 a b) := fun _ _ h => Done.of_shiftBy rfl id h
theorem setR16 (a b : RegIx) : Statement (.setR16 a b) := fun _ _ h => Done.of_shiftBy rfl id h
theorem setR24 (a b : RegIx) : Statement (.setR24 a b) := fun _ _ h => Done.of_shiftBy rfl id h
theorem setR32 (a b : RegIx) : Statement (.setR32 a b) := fun _ _ h => Done.of_shiftBy rfl id h
-- RES
theorem resI8 (a : RegIx) (n : Byte) : Statement (.resI8 a n) := fun _ _ h => Done.of_shiftBy rfl id h
theorem resI16 (a : RegIx) (n : Byte) : Statement (.resI16 a n) := fun _ _ h => Done.of_shiftBy rfl id h
theorem resI24 (a : RegIx) (n : Byte) : Statement (.resI24 a n) := fun _ _ h => Done.of_shiftBy rfl id h
theorem resI32 (a : RegIx) (n : Byte) : Statement (.resI32 a n) := fun _ _ h => Done.of_shiftBy rfl id h
theorem resR8 (a b : RegIx) : Statement (.resR8 a b) := fun _ _ h => Done.of_shiftBy rfl id h
theorem resR16 (a b : RegIx) : Statement (.resR16 a b) := fun _ _ h => Done.of_shiftBy rfl id h
theorem resR24 (a b : RegIx) : Statement (.resR24 a b) := fun _ _ h => Done.of_shiftBy rfl id h
theorem resR32 (a b : RegIx) : Statement (.resR32 a b) := fun _ _ h => Done.of_shiftBy rfl id h
-- BIT
theorem bitI8 (a : RegIx) (n : Byte) : Statement (.bitI8 a n) := fun _ _ h => Done.of_bit h
theorem bitI16 (a : RegIx) (n : Byte) : Statement (.bitI16 a n) := fun _ _ h => Done.of_bit h
theorem bitI24 (a : RegIx) (n : Byte) : Statement (.bitI24 a n) := fun _ _ h => Done.of_bit h
theorem bitI32 (a : RegIx) (n : Byte) : Statement (.bitI32 a n) := fun _ _ h => Done.of_bit h
theorem bitR8 (a b : RegIx) : Statement (.bitR8 a b) := fun _ _ h => Done.of_bit h
theorem bitR16 (a b : RegIx) : Statement (.bitR16 a b) := fun _ _ h => Done.of_bit h
theorem bitR24 (a b : RegIx) : Statement (.bitR24 a b) := fun _ _ h => Done.of_bit h
theorem bitR32 (a b : RegIx) : Statement (.bitR32 a b) := fun _ _ h => Done.of_bit h
-- GETBITS
theorem getbitsI8 (a b : RegIx) (n : Byte) : Statement (.getbitsI8 a b n) := fun _ _ h => Done.of_getbits h
theorem getbitsI16 (a b : RegIx) (n : Byte) : Statement (.getbitsI16 a b n) := fun _ _ h => Done.of_getbits h
theorem getbitsI24 (a b : RegIx) (n : Byte) : Statement (.getbitsI24 a b n) := fun _ _ h => Done.of_getbits h
theorem getbitsI32 (a b : RegIx) (n : Byte) : Statement (.getbitsI32 a b n) := fun _ _ h => Done.of_getbits h
theorem getbitsR8 (a b c : RegIx) : Statement (.getbitsR8 a b c) := fun _ _ h => Done.of_getbits h
theorem getbitsR16 (a b c : RegIx) : Statement (.getbitsR16 a b c) := fun _ _ h => Done.of_getbits h
theorem getbitsR24 (a b c : RegIx) : Statement (.getbitsR24 a b c) := fun _ _ h => Done.of_getbits h
theorem getbitsR32 (a b c : RegIx) : Statement (.getbitsR32 a b c) := fun _ _ h => Done.of_getbits h
-- SETBITS
theorem setbitsI8 (a b : RegIx) (n : Byte) : Statement (.setbitsI8 a b n) := fun _ _ h => Done.of_setbits h
theorem setbitsI16 (a b : RegIx) (n : Byte) : Statement (.setbitsI16 a b n) := fun _ _ h => Done.of_setbits h
theorem setbitsI24 (a b : RegIx) (n : Byte) : Statement (.setbitsI24 a b n) := fun _ _ h => Done.of_setbits h
theorem setbitsI32 (a b : RegIx) (n : Byte) : Statement (.setbitsI32 a b n) := fun _ _ h => Done.of_setbits h
theorem setbitsR8 (a b c : RegIx) : Statement (.setbitsR8 a b c) := fun _ _ h => Done.of_setbits h
theorem setbitsR16 (a b c : RegIx) : Statement (.setbitsR16 a b c) := fun _ _ h => Done.of_setbits h
theorem setbitsR24 (a b c : RegIx) : Statement (.setbitsR24 a b c) := fun _ _ h => Done.of_setbits h
theorem setbitsR32 (a b c : RegIx) : Statement (.setbitsR32 a b c) := fun _ _ h => Done.of_setbits h
-- JP
theorem jpImm (addr : Addr) : Statement (.jpImm addr) := fun s _ (h : jpOp (.abs addr) s = _) => Done.of_jp h
theorem jpReg (r : RegIx) : Statement (.jpReg r) := fun _ _ h => Done.of_jp h
theorem jpCond (flag : FlagIx) (addr : Addr) : Statement (.jpCond flag addr) := fun _ _ h => Done.of_jpCond h
-- JR
theorem jrRel (off : BitVec 24) : Statement (.jrRel off) := fun _ _ h => Done.of_jr h
-- CALL
theorem callImm (addr : Addr) : Statement (.callImm addr) := fun _ _ h => Done.of_call h
theorem callReg (r : RegIx) : Statement (.callReg r) := fun _ _ h => Done.of_call h
theorem callCond (flag : FlagIx) (addr : Addr) : Statement (.callCond flag addr) := fun _ _ h => Done.of_callCond h
-- CALLR
theorem callrRel (off : BitVec 24) : Statement (.callrRel off) := fun _ _ h => Done.of_callr h
-- RET
theorem ret : Statement (.ret) := fun _ _ h => Done.of_ret h
-- RETIF
theorem retif (flag : FlagIx) : Statement (.retif flag) := fun _ _ h => Done.of_retif h
-- SCP
theorem scpRR8 (a b : RegIx) : Statement (.scpRR8 a b) := fun _ _ h => Done.of_scp h
theorem scpRR16 (a b : RegIx) : Statement (.scpRR16 a b) := fun _ _ h => Done.of_scp h
theorem scpRR24 (a b : RegIx) : Statement (.scpRR24 a b) := fun _ _ h => Done.of_scp h
theorem scpRR32 (a b : RegIx) : Statement (.scpRR32 a b) := fun _ _ h => Done.of_scp h
theorem scpRI8 (a : RegIx) (imm : BitVec 8) : Statement (.scpRI8 a imm) := fun _ _ h => Done.of_scp h
theorem scpRI16 (a : RegIx) (imm : BitVec 16) : Statement (.scpRI16 a imm) := fun _ _ h => Done.of_scp h
theorem scpRI24 (a : RegIx) (imm : BitVec 24) : Statement (.scpRI24 a imm) := fun _ _ h => Done.of_scp h
theorem scpRI32 (a : RegIx) (imm : BitVec 32) : Statement (.scpRI32 a imm) := fun _ _ h => Done.of_scp h
theorem scpRMr8 (a b : RegIx) : Statement (.scpRMr8 a b) := fun _ _ h => Done.of_scp h
theorem scpRMr16 (a b : RegIx) : Statement (.scpRMr16 a b) := fun _ _ h => Done.of_scp h
theorem scpRMr24 (a b : RegIx) : Statement (.scpRMr24 a b) := fun _ _ h => Done.of_scp h
theorem scpRMr32 (a b : RegIx) : Statement (.scpRMr32 a b) := fun _ _ h => Done.of_scp h
theorem scpRMa8 (a : RegIx) (addr : Addr) : Statement (.scpRMa8 a addr) := fun _ _ h => Done.of_scp h
theorem scpRMa16 (a : RegIx) (addr : Addr) : Statement (.scpRMa16 a addr) := fun _ _ h => Done.of_scp h
theorem scpRMa24 (a : RegIx) (addr : Addr) : Statement (.scpRMa24 a addr) := fun _ _ h => Done.of_scp h
theorem scpRMa32 (a : RegIx) (addr : Addr) : Statement (.scpRMa32 a addr) := fun _ _ h => Done.of_scp h
theorem scpMrR8 (a b : RegIx) : Statement (.scpMrR8 a b) := fun _ _ h => Done.of_scp h
theorem scpMrR16 (a b : RegIx) : Statement (.scpMrR16 a b) := fun _ _ h => Done.of_scp h
theorem scpMrR24 (a b : RegIx) : Statement (.scpMrR24 a b) := fun _ _ h => Done.of_scp h
theorem scpMrR32 (a b : RegIx) : Statement (.scpMrR32 a b) := fun _ _ h => Done.of_scp h
theorem scpMaR8 (addr : Addr) (a : RegIx) : Statement (.scpMaR8 addr a) := fun _ _ h => Done.of_scp h
theorem scpMaR16 (addr : Addr) (a : RegIx) : Statement (.scpMaR16 addr a) := fun _ _ h => Done.of_scp h
theorem scpMaR24 (addr : Addr) (a : RegIx) : Statement (.scpMaR24 addr a) := fun _ _ h => Done.of_scp h
theorem scpMaR32 (addr : Addr) (a : RegIx) : Statement (.scpMaR32 addr a) := fun _ _ h => Done.of_scp h
theorem scpMrI8 (a : RegIx) (imm : BitVec 8) : Statement (.scpMrI8 a imm) := fun _ _ h => Done.of_scp h
theorem scpMrI16 (a : RegIx) (imm : BitVec 16) : Statement (.scpMrI16 a imm) := fun _ _ h => Done.of_scp h
theorem scpMrI24 (a : RegIx) (imm : BitVec 24) : Statement (.scpMrI24 a imm) := fun _ _ h => Done.of_scp h
theorem scpMrI32 (a : RegIx) (imm : BitVec 32) : Statement (.scpMrI32 a imm) := fun _ _ h => Done.of_scp h
theorem scpMaI8 (addr : Addr) (imm : BitVec 8) : Statement (.scpMaI8 addr imm) := fun _ _ h => Done.of_scp h
theorem scpMaI16 (addr : Addr) (imm : BitVec 16) : Statement (.scpMaI16 addr imm) := fun _ _ h => Done.of_scp h
theorem scpMaI24 (addr : Addr) (imm : BitVec 24) : Statement (.scpMaI24 addr imm) := fun _ _ h => Done.of_scp h
theorem scpMaI32 (addr : Addr) (imm : BitVec 32) : Statement (.scpMaI32 addr imm) := fun _ _ h => Done.of_scp h
-- SQR
theorem sqrFF (fa fb : FloatIx) : Statement (.sqrFF fa fb) := fun s _ (h : sqrOp (.freg fa) (.freg fb) s = _) => Done.of_floatUnary rfl id h
theorem sqrFR8 (fb : FloatIx) (a : RegIx) : Statement (.sqrFR8 fb a) := fun _ _ h => Done.of_floatUnary rfl id h
theorem sqrFR16 (fb : FloatIx) (a : RegIx) : Statement (.sqrFR16 fb a) := fun _ _ h => Done.of_floatUnary rfl id h
theorem sqrFR24 (fb : FloatIx) (a : RegIx) : Statement (.sqrFR24 fb a) := fun _ _ h => Done.of_floatUnary rfl id h
theorem sqrFR32 (fb : FloatIx) (a : RegIx) : Statement (.sqrFR32 fb a) := fun _ _ h => Done.of_floatUnary rfl id h
theorem sqrRF8 (a : RegIx) (fb : FloatIx) : Statement (.sqrRF8 a fb) := fun _ _ h => Done.of_floatUnary rfl id h
theorem sqrRF16 (a : RegIx) (fb : FloatIx) : Statement (.sqrRF16 a fb) := fun _ _ h => Done.of_floatUnary rfl id h
theorem sqrRF24 (a : RegIx) (fb : FloatIx) : Statement (.sqrRF24 a fb) := fun _ _ h => Done.of_floatUnary rfl id h
theorem sqrRF32 (a : RegIx) (fb : FloatIx) : Statement (.sqrRF32 a fb) := fun _ _ h => Done.of_floatUnary rfl id h
theorem sqrFMr (fb : FloatIx) (a : RegIx) : Statement (.sqrFMr fb a) := fun _ _ h => Done.of_floatUnary rfl id h
theorem sqrMrF (a : RegIx) (fb : FloatIx) : Statement (.sqrMrF a fb) := fun _ _ h => Done.of_floatUnary rfl id h
theorem sqrFMa (fa : FloatIx) (addr : Addr) : Statement (.sqrFMa fa addr) := fun _ _ h => Done.of_floatUnary rfl id h
theorem sqrMaF (addr : Addr) (fa : FloatIx) : Statement (.sqrMaF addr fa) := fun _ _ h => Done.of_floatUnary rfl id h
-- CBR
theorem cbrFF (fa fb : FloatIx) : Statement (.cbrFF fa fb) := fun s _ (h : cbrOp (.freg fa) (.freg fb) s = _) => Done.of_floatUnary rfl id h
theorem cbrFR8 (fb : FloatIx) (a : RegIx) : Statement (.cbrFR8 fb a) := fun _ _ h => Done.of_floatUnary rfl id h
theorem cbrFR16 (fb : FloatIx) (a : RegIx) : Statement (.cbrFR16 fb a) := fun _ _ h => Done.of_floatUnary rfl id h
theorem cbrFR24 (fb : FloatIx) (a : RegIx) : Statement (.cbrFR24 fb a) := fun _ _ h => Done.of_floatUnary rfl id h
theorem cbrFR32 (fb : FloatIx) (a : RegIx) : Statement (.cbrFR32 fb a) := fun _ _ h => Done.of_floatUnary rfl id h
theorem cbrRF8 (a : RegIx) (fb : FloatIx) : Statement (.cbrRF8 a fb) := fun _ _ h => Done.of_floatUnary rfl id h
theorem cbrRF16 (a : RegIx) (fb : FloatIx) : Statement (.cbrRF16 a fb) := fun _ _ h => Done.of_floatUnary rfl id h
theorem cbrRF24 (a : RegIx) (fb : FloatIx) : Statement (.cbrRF24 a fb) := fun _ _ h => Done.of_floatUnary rfl id h
theorem cbrRF32 (a : RegIx) (fb : FloatIx) : Statement (.cbrRF32 a fb) := fun _ _ h => Done.of_floatUnary rfl id h
theorem cbrFMr (fb : FloatIx) (a : RegIx) : Statement (.cbrFMr fb a) := fun _ _ h => Done.of_floatUnary rfl id h
theorem cbrMrF (a : RegIx) (fb : FloatIx) : Statement (.cbrMrF a fb) := fun _ _ h => Done.of_floatUnary rfl id h
theorem cbrFMa (fa : FloatIx) (addr : Addr) : Statement (.cbrFMa fa addr) := fun _ _ h => Done.of_floatUnary rfl id h
theorem cbrMaF (addr : Addr) (fa : FloatIx) : Statement (.cbrMaF addr fa) := fun _ _ h => Done.of_floatUnary rfl id h
-- POW
theorem powFF (fa fb : FloatIx) : Statement (.powFF fa fb) := fun s _ (h : powOp (.freg fa) (.freg fb) s = _) => Done.of_pow h
theorem powFR8 (fb : FloatIx) (a : RegIx) : Statement (.powFR8 fb a) := fun _ _ h => Done.of_pow h
theorem powFR16 (fb : FloatIx) (a : RegIx) : Statement (.powFR16 fb a) := fun _ _ h => Done.of_pow h
theorem powFR24 (fb : FloatIx) (a : RegIx) : Statement (.powFR24 fb a) := fun _ _ h => Done.of_pow h
theorem powFR32 (fb : FloatIx) (a : RegIx) : Statement (.powFR32 fb a) := fun _ _ h => Done.of_pow h
theorem powRF8 (a : RegIx) (fb : FloatIx) : Statement (.powRF8 a fb) := fun _ _ h => Done.of_pow h
theorem powRF16 (a : RegIx) (fb : FloatIx) : Statement (.powRF16 a fb) := fun _ _ h => Done.of_pow h
theorem powRF24 (a : RegIx) (fb : FloatIx) : Statement (.powRF24 a fb) := fun _ _ h => Done.of_pow h
theorem powRF32 (a : RegIx) (fb : FloatIx) : Statement (.powRF32 a fb) := fun _ _ h => Done.of_pow h
theorem powFMr (fb : FloatIx) (a : RegIx) : Statement (.powFMr fb a) := fun _ _ h => Done.of_pow h
theorem powMrF (a : RegIx) (fb : FloatIx) : Statement (.powMrF a fb) := fun _ _ h => Done.of_pow h
theorem powFMa (fa : FloatIx) (addr : Addr) : Statement (.powFMa fa addr) := fun _ _ h => Done.of_pow h
theorem powMaF (addr : Addr) (fa : FloatIx) : Statement (.powMaF addr fa) := fun _ _ h => Done.of_pow h
-- SIN
theorem sinFF (fa fb : FloatIx) : Statement (.sinFF fa fb) := fun s _ (h : sinOp (.freg fa) (.freg fb) s = _) => Done.of_floatUnary rfl id h
theorem sinFR8 (fb : FloatIx) (a : RegIx) : Statement (.sinFR8 fb a) := fun _ _ h => Done.of_floatUnary rfl id h
theorem sinFR16 (fb : FloatIx) (a : RegIx) : Statement (.sinFR16 fb a) := fun _ _ h => Done.of_floatUnary rfl id h
theorem sinFR24 (fb : FloatIx) (a : RegIx) : Statement (.sinFR24 fb a) := fun _ _ h => Done.of_floatUnary rfl id h
theorem sinFR32 (fb : FloatIx) (a : RegIx) : Statement (.sinFR32 fb a) := fun _ _ h => Done.of_floatUnary rfl id h
theorem sinRF8 (a : RegIx) (fb : FloatIx) : Statement (.sinRF8 a fb) := fun _ _ h => Done.of_floatUnary rfl id h
theorem sinRF16 (a : RegIx) (fb : FloatIx) : Statement (.sinRF16 a fb) := fun _ _ h => Done.of_floatUnary rfl id h
theorem sinRF24 (a : RegIx) (fb : FloatIx) : Statement (.sinRF24 a fb) := fun _ _ h => Done.of_floatUnary rfl id h
theorem sinRF32 (a : RegIx) (fb : FloatIx) : Statement (.sinRF32 a fb) := fun _ _ h => Done.of_floatUnary rfl id h
theorem sinFMr (fb : FloatIx) (a : RegIx) : Statement (.sinFMr fb a) := fun _ _ h => Done.of_floatUnary rfl id h
theorem sinMrF (a : RegIx) (fb : FloatIx) : Statement (.sinMrF a fb) := fun _ _ h => Done.of_floatUnary rfl id h
theorem sinFMa (fa : FloatIx) (addr : Addr) : Statement (.sinFMa fa addr) := fun _ _ h => Done.of_floatUnary rfl id h
theorem sinMaF (addr : Addr) (fa : FloatIx) : Statement (.sinMaF addr fa) := fun _ _ h => Done.of_floatUnary rfl id h
-- FLOOR
theorem floorFF (fa fb : FloatIx) : Statement (.floorFF fa fb) := fun s _ (h : floorOp (.freg fa) (.freg fb) s = _) => Done.of_floatUnary rfl id h
theorem floorFR8 (fb : FloatIx) (a : RegIx) : Statement (.floorFR8 fb a) := fun _ _ h => Done.of_floatUnary rfl id h
theorem floorFR16 (fb : FloatIx) (a : RegIx) : Statement (.floorFR16 fb a) := fun _ _ h => Done.of_floatUnary rfl id h
theorem floorFR24 (fb : FloatIx) (a : RegIx) : Statement (.floorFR24 fb a) := fun _ _ h => Done.of_floatUnary rfl id h
theorem floorFR32 (fb : FloatIx) (a : RegIx) : Statement (.floorFR32 fb a) := fun _ _ h => Done.of_floatUnary rfl id h
theorem floorRF8 (a : RegIx) (fb : FloatIx) : Statement (.floorRF8 a fb) := fun _ _ h => Done.of_floatUnary rfl id h
theorem floorRF16 (a : RegIx) (fb : FloatIx) : Statement (.floorRF16 a fb) := fun _ _ h => Done.of_floatUnary rfl id h
theorem floorRF24 (a : RegIx) (fb : FloatIx) : Statement (.floorRF24 a fb) := fun _ _ h => Done.of_floatUnary rfl id h
theorem floorRF32 (a : RegIx) (fb : FloatIx) : Statement (.floorRF32 a fb) := fun _ _ h => Done.of_floatUnary rfl id h
theorem floorFMr (fb : FloatIx) (a : RegIx) : Statement (.floorFMr fb a) := fun _ _ h => Done.of_floatUnary rfl id h
theorem floorMrF (a : RegIx) (fb : FloatIx) : Statement (.floorMrF a fb) := fun _ _ h => Done.of_floatUnary rfl id h
theorem floorFMa (fa : FloatIx) (addr : Addr) : Statement (.floorFMa fa addr) := fun _ _ h => Done.of_floatUnary rfl id h
theorem floorMaF (addr : Addr) (fa : FloatIx) : Statement (.floorMaF addr fa) := fun _ _ h => Done.of_floatUnary rfl id h
-- ROUND
theorem roundFF (fa fb : FloatIx) : Statement (.roundFF fa fb) := fun s _ (h : roundOp (.freg fa) (.freg fb) s = _) => Done.of_floatUnary rfl id h
theorem roundFR8 (fb : FloatIx) (a : RegIx) : Statement (.roundFR8 fb a) := fun _ _ h => Done.of_floatUnary rfl id h
theorem roundFR16 (fb : FloatIx) (a : RegIx) : Statement (.roundFR16 fb a) := fun _ _ h => Done.of_floatUnary rfl id h
theorem roundFR24 (fb : FloatIx) (a : RegIx) : Statement (.roundFR24 fb a) := fun _ _ h => Done.of_floatUnary rfl id h
theorem roundFR32 (fb : FloatIx) (a : RegIx) : Statement (.roundFR32 fb a) := fun _ _ h => Done.of_floatUnary rfl id h
theorem roundRF8 (a : RegIx) (fb : FloatIx) : Statement (.roundRF8 a fb) := fun _ _ h => Done.of_floatUnary rfl id h
theorem roundRF16 (a : RegIx) (fb : FloatIx) : Statement (.roundRF16 a fb) := fun _ _ h => Done.of_floatUnary rfl id h
theorem roundRF24 (a : RegIx) (fb : FloatIx) : Statement (.roundRF24 a fb) := fun _ _ h => Done.of_floatUnary rfl id h
theorem roundRF32 (a : RegIx) (fb : FloatIx) : Statement (.roundRF32 a fb) := fun _ _ h => Done.of_floatUnary rfl id h
theorem roundFMr (fb : FloatIx) (a : RegIx) : Statement (.roundFMr fb a) := fun _ _ h => Done.of_floatUnary rfl id h
theorem roundMrF (a : RegIx) (fb : FloatIx) : Statement (.roundMrF a fb) := fun _ _ h => Done.of_floatUnary rfl id h
theorem roundFMa (fa : FloatIx) (addr : Addr) : Statement (.roundFMa fa addr) := fun _ _ h => Done.of_floatUnary rfl id h
theorem roundMaF (addr : Addr) (fa : FloatIx) : Statement (.roundMaF addr fa) := fun _ _ h => Done.of_floatUnary rfl id h
-- MEMC
theorem memcRRR (a b c : RegIx) : Statement (.memcRRR a b c) := fun _ _ h => Done.of_memc h
theorem memcRRI (a b : RegIx) (len : BitVec 24) : Statement (.memcRRI a b len) := fun _ _ h => Done.of_memc h
theorem memcRIR (a : RegIx) (dst : BitVec 24) (c : RegIx) : Statement (.memcRIR a dst c) := fun _ _ h => Done.of_memc h
theorem memcRII (a : RegIx) (dst len : BitVec 24) : Statement (.memcRII a dst len) := fun _ _ h => Done.of_memc h
theorem memcIRR (src : BitVec 24) (b c : RegIx) : Statement (.memcIRR src b c) := fun _ _ h => Done.of_memc h
theorem memcIRI (src : BitVec 24) (b : RegIx) (len : BitVec 24) : Statement (.memcIRI src b len) := fun _ _ h => Done.of_memc h
theorem memcIIR (src dst : BitVec 24) (c : RegIx) : Statement (.memcIIR src dst c) := fun _ _ h => Done.of_memc h
theorem memcIII (src dst len : BitVec 24) : Statement (.memcIII src dst len) := fun _ _ h => Done.of_memc h
-- MEMF
theorem memfRRR (a b c : RegIx) : Statement (.memfRRR a b c) := fun _ _ h => Done.of_memf h
theorem memfRRI (a b : RegIx) (len : BitVec 24) : Statement (.memfRRI a b len) := fun _ _ h => Done.of_memf h
theorem memfRIR (a : RegIx) (addr : BitVec 24) (c : RegIx) : Statement (.memfRIR a addr c) := fun _ _ h => Done.of_memf h
theorem memfRII (a : RegIx) (addr len : BitVec 24) : Statement (.memfRII a addr len) := fun _ _ h => Done.of_memf h
theorem memfIRR (val : Byte) (b c : RegIx) : Statement (.memfIRR val b c) := fun _ _ h => Done.of_memf h
theorem memfIRI (val : Byte) (b : RegIx) (len : BitVec 24) : Statement (.memfIRI val b len) := fun _ _ h => Done.of_memf h
theorem memfIIR (val : Byte) (addr : BitVec 24) (c : RegIx) : Statement (.memfIIR val addr c) := fun _ _ h => Done.of_memf h
theorem memfIII (val : Byte) (addr len : BitVec 24) : Statement (.memfIII val addr len) := fun _ _ h => Done.of_memf h
-- FIND
theorem findBI (a : RegIx) (n : Byte) : Statement (.findBI a n) := fun _ _ h => Done.of_findByte h
theorem findBR (a b : RegIx) : Statement (.findBR a b) := fun _ _ h => Done.of_findByte h
theorem findPA (a : RegIx) (addr : Addr) : Statement (.findPA a addr) := fun _ _ h => Done.of_findPattern h
theorem findPR (a b : RegIx) : Statement (.findPR a b) := fun _ _ h => Done.of_findPattern h
-- LDREGS
theorem ldregsMa (a b : RegIx) (addr : Addr) : Statement (.ldregsMa a b addr) := fun _ _ h => Done.of_ldregs h
theorem ldregsMr (a b c : RegIx) : Statement (.ldregsMr a b c) := fun _ _ h => Done.of_ldregs h
-- STREGS
theorem stregsMa (a b : RegIx) (addr : Addr) : Statement (.stregsMa a b addr) := fun _ _ h => Done.of_stregs h
theorem stregsMr (a b c : RegIx) : Statement (.stregsMr a b c) := fun _ _ h => Done.of_stregs h
-- EX
theorem ex8 (a b : RegIx) : Statement (.ex8 a b) := fun _ _ h => Done.of_ex h
theorem ex16 (a b : RegIx) : Statement (.ex16 a b) := fun _ _ h => Done.of_ex h
theorem ex24 (a b : RegIx) : Statement (.ex24 a b) := fun _ _ h => Done.of_ex h
theorem ex32 (a b : RegIx) : Statement (.ex32 a b) := fun _ _ h => Done.of_ex h
-- BANKSEL
theorem bankselI (n : Byte) : Statement (.bankselI n) := fun _ _ h => Done.of_banksel h
theorem bankselR (r : RegIx) : Statement (.bankselR r) := fun _ _ h => Done.of_banksel h
-- RAND
theorem rand8 (a : RegIx) : Statement (.rand8 a) := fun _ _ h => Done.of_rand h
theorem rand16 (a : RegIx) : Statement (.rand16 a) := fun _ _ h => Done.of_rand h
theorem rand24 (a : RegIx) : Statement (.rand24 a) := fun _ _ h => Done.of_rand h
theorem rand32 (a : RegIx) : Statement (.rand32 a) := fun _ _ h => Done.of_rand h
theorem randSeedI (seed : Word) : Statement (.randSeedI seed) := fun s _ (h : randSeedOp (.imm seed) s = _) => Done.of_randSeed h
theorem randSeedR (a : RegIx) : Statement (.randSeedR a) := fun _ _ h => Done.of_randSeed h
-- WAIT
theorem waitI (ms : BitVec 16) : Statement (.waitI ms) := fun s _ (h : waitOp (.imm ms) s = _) => Done.of_wait h
theorem waitR (r : RegIx) : Statement (.waitR r) := fun _ _ h => Done.of_wait h
-- SETVAR
theorem setvarII (index value : Word) : Statement (.setvarII index value) := fun s _ (h : setvarOp (.imm index) (.imm value) s = _) => Done.of_setvar h
theorem setvarRI (a : RegIx) (value : Word) : Statement (.setvarRI a value) := fun _ _ h => Done.of_setvar h
theorem setvarIR (index : Word) (b : RegIx) : Statement (.setvarIR index b) := fun _ _ h => Done.of_setvar h
theorem setvarRR (a b : RegIx) : Statement (.setvarRR a b) := fun _ _ h => Done.of_setvar h
-- GETVAR
theorem getvarI (a : RegIx) (index : Word) : Statement (.getvarI a index) := fun _ _ h => Done.of_getvar h
theorem getvarR (a b : RegIx) : Statement (.getvarR a b) := fun _ _ h => Done.of_getvar h
-- SMUL
theorem smulRR8 (a b : RegIx) : Statement (.smulRR8 a b) := fun _ _ h => Done.of_smul h
theorem smulRR16 (a b : RegIx) : Statement (.smulRR16 a b) := fun _ _ h => Done.of_smul h
theorem smulRR24 (a b : RegIx) : Statement (.smulRR24 a b) := fun _ _ h => Done.of_smul h
theorem smulRR32 (a b : RegIx) : Statement (.smulRR32 a b) := fun _ _ h => Done.of_smul h
theorem smulRI8 (a : RegIx) (imm : BitVec 8) : Statement (.smulRI8 a imm) := fun s _ (h : smulOp .w8 (.imm imm) s = _) => Done.of_smul h
theorem smulRI16 (a : RegIx) (imm : BitVec 16) : Statement (.smulRI16 a imm) := fun s _ (h : smulOp .w16 (.imm imm) s = _) => Done.of_smul h
theorem smulRI24 (a : RegIx) (imm : BitVec 24) : Statement (.smulRI24 a imm) := fun s _ (h : smulOp .w24 (.imm imm) s = _) => Done.of_smul h
theorem smulRI32 (a : RegIx) (imm : BitVec 32) : Statement (.smulRI32 a imm) := fun s _ (h : smulOp .w32 (.imm imm) s = _) => Done.of_smul h
-- PLAY
theorem play : Statement (.play) := fun _ _ h => Done.of_play h
-- VCL
theorem vclI (n : Byte) : Statement (.vclI n) := fun s _ (h : vclOp (.imm n) s = _) => Done.of_vcl h
theorem vclR (r : RegIx) : Statement (.vclR r) := fun _ _ h => Done.of_vcl h
-- VDL
theorem vdlI (n : Byte) : Statement (.vdlI n) := fun s _ (h : vdlOp (.imm n) s = _) => Done.of_vdl h
theorem vdlR (r : RegIx) : Statement (.vdlR r) := fun _ _ h => Done.of_vdl h
-- INT
theorem int (r : RegIx) (n arg : Byte) : Statement (.int r n arg) := fun _ _ h => Done.of_int h
-- BREAK
theorem brk : Statement (.brk) := fun _ _ h => Done.of_break h

end Executed

/-- Every instruction is encoded as its row says. -/
theorem Encoded.all : ∀ i : Instr, Encoded.Statement i
  | .andRR8 a b => Encoded.andRR8 a b
  | .andRR16 a b => Encoded.andRR16 a b
  | .andRR24 a b => Encoded.andRR24 a b
  | .andRR32 a b => Encoded.andRR32 a b
  | .andRI8 a imm => Encoded.andRI8 a imm
  | .andRI16 a imm => Encoded.andRI16 a imm
  | .andRI24 a imm => Encoded.andRI24 a imm
  | .andRI32 a imm => Encoded.andRI32 a imm
  | .andRMr8 a b => Encoded.andRMr8 a b
  | .andRMr16 a b => Encoded.andRMr16 a b
  | .andRMr24 a b => Encoded.andRMr24 a b
  | .andRMr32 a b => Encoded.andRMr32 a b
  | .andRMa8 a addr => Encoded.andRMa8 a addr
  | .andRMa16 a addr => Encoded.andRMa16 a addr
  | .andRMa24 a addr => Encoded.andRMa24 a addr
  | .andRMa32 a addr => Encoded.andRMa32 a addr
  | .andMrR8 a b => Encoded.andMrR8 a b
  | .andMrR16 a b => Encoded.andMrR16 a b
  | .andMrR24 a b => Encoded.andMrR24 a b
  | .andMrR32 a b => Encoded.andMrR32 a b
  | .andMaR8 addr a => Encoded.andMaR8 addr a
  | .andMaR16 addr a => Encoded.andMaR16 addr a
  | .andMaR24 addr a => Encoded.andMaR24 addr a
  | .andMaR32 addr a => Encoded.andMaR32 addr a
  | .andMrI8 a imm => Encoded.andMrI8 a imm
  | .andMrI16 a imm => Encoded.andMrI16 a imm
  | .andMrI24 a imm => Encoded.andMrI24 a imm
  | .andMrI32 a imm => Encoded.andMrI32 a imm
  | .andMaI8 addr imm => Encoded.andMaI8 addr imm
  | .andMaI16 addr imm => Encoded.andMaI16 addr imm
  | .andMaI24 addr imm => Encoded.andMaI24 addr imm
  | .andMaI32 addr imm => Encoded.andMaI32 addr imm
  | .orRR8 a b => Encoded.orRR8 a b
  | .orRR16 a b => Encoded.orRR16 a b
  | .orRR24 a b => Encoded.orRR24 a b
  | .orRR32 a b => Encoded.orRR32 a b
  | .orRI8 a imm => Encoded.orRI8 a imm
  | .orRI16 a imm => Encoded.orRI16 a imm
  | .orRI24 a imm => Encoded.orRI24 a imm
  | .orRI32 a imm => Encoded.orRI32 a imm
  | .orRMr8 a b => Encoded.orRMr8 a b
  | .orRMr16 a b => Encoded.orRMr16 a b
  | .orRMr24 a b => Encoded.orRMr24 a b
  | .orRMr32 a b => Encoded.orRMr32 a b
  | .orRMa8 a addr => Encoded.orRMa8 a addr
  | .orRMa16 a addr => Encoded.orRMa16 a addr
  | .orRMa24 a addr => Encoded.orRMa24 a addr
  | .orRMa32 a addr => Encoded.orRMa32 a addr
  | .orMrR8 a b => Encoded.orMrR8 a b
  | .orMrR16 a b => Encoded.orMrR16 a b
  | .orMrR24 a b => Encoded.orMrR24 a b
  | .orMrR32 a b => Encoded.orMrR32 a b
  | .orMaR8 addr a => Encoded.orMaR8 addr a
  | .orMaR16 addr a => Encoded.orMaR16 addr a
  | .orMaR24 addr a => Encoded.orMaR24 addr a
  | .orMaR32 addr a => Encoded.orMaR32 addr a
  | .orMrI8 a imm => Encoded.orMrI8 a imm
  | .orMrI16 a imm => Encoded.orMrI16 a imm
  | .orMrI24 a imm => Encoded.orMrI24 a imm
  | .orMrI32 a imm => Encoded.orMrI32 a imm
  | .orMaI8 addr imm => Encoded.orMaI8 addr imm
  | .orMaI16 addr imm => Encoded.orMaI16 addr imm
  | .orMaI24 addr imm => Encoded.orMaI24 addr imm
  | .orMaI32 addr imm => Encoded.orMaI32 addr imm
  | .xorRR8 a b => Encoded.xorRR8 a b
  | .xorRR16 a b => Encoded.xorRR16 a b
  | .xorRR24 a b => Encoded.xorRR24 a b
  | .xorRR32 a b => Encoded.xorRR32 a b
  | .xorRI8 a imm => Encoded.xorRI8 a imm
  | .xorRI16 a imm => Encoded.xorRI16 a imm
  | .xorRI24 a imm => Encoded.xorRI24 a imm
  | .xorRI32 a imm => Encoded.xorRI32 a imm
  | .xorRMr8 a b => Encoded.xorRMr8 a b
  | .xorRMr16 a b => Encoded.xorRMr16 a b
  | .xorRMr24 a b => Encoded.xorRMr24 a b
  | .xorRMr32 a b => Encoded.xorRMr32 a b
  | .xorRMa8 a addr => Encoded.xorRMa8 a addr
  | .xorRMa16 a addr => Encoded.xorRMa16 a addr
  | .xorRMa24 a addr => Encoded.xorRMa24 a addr
  | .xorRMa32 a addr => Encoded.xorRMa32 a addr
  | .xorMrR8 a b => Encoded.xorMrR8 a b
  | .xorMrR16 a b => Encoded.xorMrR16 a b
  | .xorMrR24 a b => Encoded.xorMrR24 a b
  | .xorMrR32 a b => Encoded.xorMrR32 a b
  | .xorMaR8 addr a => Encoded.xorMaR8 addr a
  | .xorMaR16 addr a => Encoded.xorMaR16 addr a
  | .xorMaR24 addr a => Encoded.xorMaR24 addr a
  | .xorMaR32 addr a => Encoded.xorMaR32 addr a
  | .xorMrI8 a imm => Encoded.xorMrI8 a imm
  | .xorMrI16 a imm => Encoded.xorMrI16 a imm
  | .xorMrI24 a imm => Encoded.xorMrI24 a imm
  | .xorMrI32 a imm => Encoded.xorMrI32 a imm
  | .xorMaI8 addr imm => Encoded.xorMaI8 addr imm
  | .xorMaI16 addr imm => Encoded.xorMaI16 addr imm
  | .xorMaI24 addr imm => Encoded.xorMaI24 addr imm
  | .xorMaI32 addr imm => Encoded.xorMaI32 addr imm
  | .norRR8 a b => Encoded.norRR8 a b
  | .norRR16 a b => Encoded.norRR16 a b
  | .norRR24 a b => Encoded.norRR24 a b
  | .norRR32 a b => Encoded.norRR32 a b
  | .norRI8 a imm => Encoded.norRI8 a imm
  | .norRI16 a imm => Encoded.norRI16 a imm
  | .norRI24 a imm => Encoded.norRI24 a imm
  | .norRI32 a imm => Encoded.norRI32 a imm
  | .norRMr8 a b => Encoded.norRMr8 a b
  | .norRMr16 a b => Encoded.norRMr16 a b
  | .norRMr24 a b => Encoded.norRMr24 a b
  | .norRMr32 a b => Encoded.norRMr32 a b
  | .norRMa8 a addr => Encoded.norRMa8 a addr
  | .norRMa16 a addr => Encoded.norRMa16 a addr
  | .norRMa24 a addr => Encoded.norRMa24 a addr
  | .norRMa32 a addr => Encoded.norRMa32 a addr
  | .norMrR8 a b => Encoded.norMrR8 a b
  | .norMrR16 a b => Encoded.norMrR16 a b
  | .norMrR24 a b => Encoded.norMrR24 a b
  | .norMrR32 a b => Encoded.norMrR32 a b
  | .norMaR8 addr a => Encoded.norMaR8 addr a
  | .norMaR16 addr a => Encoded.norMaR16 addr a
  | .norMaR24 addr a => Encoded.norMaR24 addr a
  | .norMaR32 addr a => Encoded.norMaR32 addr a
  | .norMrI8 a imm => Encoded.norMrI8 a imm
  | .norMrI16 a imm => Encoded.norMrI16 a imm
  | .norMrI24 a imm => Encoded.norMrI24 a imm
  | .norMrI32 a imm => Encoded.norMrI32 a imm
  | .norMaI8 addr imm => Encoded.norMaI8 addr imm
  | .norMaI16 addr imm => Encoded.norMaI16 addr imm
  | .norMaI24 addr imm => Encoded.norMaI24 addr imm
  | .norMaI32 addr imm => Encoded.norMaI32 addr imm
  | .minRR8 a b => Encoded.minRR8 a b
  | .minRR16 a b => Encoded.minRR16 a b
  | .minRR24 a b => Encoded.minRR24 a b
  | .minRR32 a b => Encoded.minRR32 a b
  | .minRI8 a imm => Encoded.minRI8 a imm
  | .minRI16 a imm => Encoded.minRI16 a imm
  | .minRI24 a imm => Encoded.minRI24 a imm
  | .minRI32 a imm => Encoded.minRI32 a imm
  | .minRMr8 a b => Encoded.minRMr8 a b
  | .minRMr16 a b => Encoded.minRMr16 a b
  | .minRMr24 a b => Encoded.minRMr24 a b
  | .minRMr32 a b => Encoded.minRMr32 a b
  | .minRMa8 a addr => Encoded.minRMa8 a addr
  | .minRMa16 a addr => Encoded.minRMa16 a addr
  | .minRMa24 a addr => Encoded.minRMa24 a addr
  | .minRMa32 a addr => Encoded.minRMa32 a addr
  | .minMrR8 a b => Encoded.minMrR8 a b
  | .minMrR16 a b => Encoded.minMrR16 a b
  | .minMrR24 a b => Encoded.minMrR24 a b
  | .minMrR32 a b => Encoded.minMrR32 a b
  | .minMaR8 addr a => Encoded.minMaR8 addr a
  | .minMaR16 addr a => Encoded.minMaR16 addr a
  | .minMaR24 addr a => Encoded.minMaR24 addr a
  | .minMaR32 addr a => Encoded.minMaR32 addr a
  | .minMrI8 a imm => Encoded.minMrI8 a imm
  | .minMrI16 a imm => Encoded.minMrI16 a imm
  | .minMrI24 a imm => Encoded.minMrI24 a imm
  | .minMrI32 a imm => Encoded.minMrI32 a imm
  | .minMaI8 addr imm => Encoded.minMaI8 addr imm
  | .minMaI16 addr imm => Encoded.minMaI16 addr imm
  | .minMaI24 addr imm => Encoded.minMaI24 addr imm
  | .minMaI32 addr imm => Encoded.minMaI32 addr imm
  | .minRF8 a fb => Encoded.minRF8 a fb
  | .minRF16 a fb => Encoded.minRF16 a fb
  | .minRF24 a fb => Encoded.minRF24 a fb
  | .minRF32 a fb => Encoded.minRF32 a fb
  | .minFF fa fb => Encoded.minFF fa fb
  | .maxRR8 a b => Encoded.maxRR8 a b
  | .maxRR16 a b => Encoded.maxRR16 a b
  | .maxRR24 a b => Encoded.maxRR24 a b
  | .maxRR32 a b => Encoded.maxRR32 a b
  | .maxRI8 a imm => Encoded.maxRI8 a imm
  | .maxRI16 a imm => Encoded.maxRI16 a imm
  | .maxRI24 a imm => Encoded.maxRI24 a imm
  | .maxRI32 a imm => Encoded.maxRI32 a imm
  | .maxRMr8 a b => Encoded.maxRMr8 a b
  | .maxRMr16 a b => Encoded.maxRMr16 a b
  | .maxRMr24 a b => Encoded.maxRMr24 a b
  | .maxRMr32 a b => Encoded.maxRMr32 a b
  | .maxRMa8 a addr => Encoded.maxRMa8 a addr
  | .maxRMa16 a addr => Encoded.maxRMa16 a addr
  | .maxRMa24 a addr => Encoded.maxRMa24 a addr
  | .maxRMa32 a addr => Encoded.maxRMa32 a addr
  | .maxMrR8 a b => Encoded.maxMrR8 a b
  | .maxMrR16 a b => Encoded.maxMrR16 a b
  | .maxMrR24 a b => Encoded.maxMrR24 a b
  | .maxMrR32 a b => Encoded.maxMrR32 a b
  | .maxMaR8 addr a => Encoded.maxMaR8 addr a
  | .maxMaR16 addr a => Encoded.maxMaR16 addr a
  | .maxMaR24 addr a => Encoded.maxMaR24 addr a
  | .maxMaR32 addr a => Encoded.maxMaR32 addr a
  | .maxMrI8 a imm => Encoded.maxMrI8 a imm
  | .maxMrI16 a imm => Encoded.maxMrI16 a imm
  | .maxMrI24 a imm => Encoded.maxMrI24 a imm
  | .maxMrI32 a imm => Encoded.maxMrI32 a imm
  | .maxMaI8 addr imm => Encoded.maxMaI8 addr imm
  | .maxMaI16 addr imm => Encoded.maxMaI16 addr imm
  | .maxMaI24 addr imm => Encoded.maxMaI24 addr imm
  | .maxMaI32 addr imm => Encoded.maxMaI32 addr imm
  | .maxRF8 a fb => Encoded.maxRF8 a fb
  | .maxRF16 a fb => Encoded.maxRF16 a fb
  | .maxRF24 a fb => Encoded.maxRF24 a fb
  | .maxRF32 a fb => Encoded.maxRF32 a fb
  | .maxFF fa fb => Encoded.maxFF fa fb
  | .incR8 a => Encoded.incR8 a
  | .incR16 a => Encoded.incR16 a
  | .incR24 a => Encoded.incR24 a
  | .incR32 a => Encoded.incR32 a
  | .incMr8 a => Encoded.incMr8 a
  | .incMr16 a => Encoded.incMr16 a
  | .incMr24 a => Encoded.incMr24 a
  | .incMr32 a => Encoded.incMr32 a
  | .incMa8 addr => Encoded.incMa8 addr
  | .incMa16 addr => Encoded.incMa16 addr
  | .incMa24 addr => Encoded.incMa24 addr
  | .incMa32 addr => Encoded.incMa32 addr
  | .decR8 a => Encoded.decR8 a
  | .decR16 a => Encoded.decR16 a
  | .decR24 a => Encoded.decR24 a
  | .decR32 a => Encoded.decR32 a
  | .decMr8 a => Encoded.decMr8 a
  | .decMr16 a => Encoded.decMr16 a
  | .decMr24 a => Encoded.decMr24 a
  | .decMr32 a => Encoded.decMr32 a
  | .decMa8 addr => Encoded.decMa8 addr
  | .decMa16 addr => Encoded.decMa16 addr
  | .decMa24 addr => Encoded.decMa24 addr
  | .decMa32 addr => Encoded.decMa32 addr
  | .invR8 a => Encoded.invR8 a
  | .invR16 a => Encoded.invR16 a
  | .invR24 a => Encoded.invR24 a
  | .invR32 a => Encoded.invR32 a
  | .slI8 a n => Encoded.slI8 a n
  | .slI16 a n => Encoded.slI16 a n
  | .slI24 a n => Encoded.slI24 a n
  | .slI32 a n => Encoded.slI32 a n
  | .slR8 a b => Encoded.slR8 a b
  | .slR16 a b => Encoded.slR16 a b
  | .slR24 a b => Encoded.slR24 a b
  | .slR32 a b => Encoded.slR32 a b
  | .srI8 a n => Encoded.srI8 a n
  | .srI16 a n => Encoded.srI16 a n
  | .srI24 a n => Encoded.srI24 a n
  | .srI32 a n => Encoded.srI32 a n
  | .srR8 a b => Encoded.srR8 a b
  | .srR16 a b => Encoded.srR16 a b
  | .srR24 a b => Encoded.srR24 a b
  | .srR32 a b => Encoded.srR32 a b
  | .rlI8 a n => Encoded.rlI8 a n
  | .rlI16 a n => Encoded.rlI16 a n
  | .rlI24 a n => Encoded.rlI24 a n
  | .rlI32 a n => Encoded.rlI32 a n
  | .rlR8 a b => Encoded.rlR8 a b
  | .rlR16 a b => Encoded.rlR16 a b
  | .rlR24 a b => Encoded.rlR24 a b
  | .rlR32 a b => Encoded.rlR32 a b
  | .rrI8 a n => Encoded.rrI8 a n
  | .rrI16 a n => Encoded.rrI16 a n
  | .rrI24 a n => Encoded.rrI24 a n
  | .rrI32 a n => Encoded.rrI32 a n
  | .rrR8 a b => Encoded.rrR8 a b
  | .rrR16 a b => Encoded.rrR16 a b
  | .rrR24 a b => Encoded.rrR24 a b
  | .rrR32 a b => Encoded.rrR32 a b
  | .setI8 a n => Encoded.setI8 a n
  | .setI16 a n => Encoded.setI16 a n
  | .setI24 a n => Encoded.setI24 a n
  | .setI32 a n => Encoded.setI32 a n
  | .setR8 a b => Encoded.setR8 a b
  | .setR16 a b => Encoded.setR16 a b
  | .setR24 a b => Encoded.setR24 a b
  | .setR32 a b => Encoded.setR32 a b
  | .resI8 a n => Encoded.resI8 a n
  | .resI16 a n => Encoded.resI16 a n
  | .resI24 a n => Encoded.resI24 a n
  | .resI32 a n => Encoded.resI32 a n
  | .resR8 a b => Encoded.resR8 a b
  | .resR16 a b => Encoded.resR16 a b
  | .resR24 a b => Encoded.resR24 a b
  | .resR32 a b => Encoded.resR32 a b
  | .bitI8 a n => Encoded.bitI8 a n
  | .bitI16 a n => Encoded.bitI16 a n
  | .bitI24 a n => Encoded.bitI24 a n
  | .bitI32 a n => Encoded.bitI32 a n
  | .bitR8 a b => Encoded.bitR8 a b
  | .bitR16 a b => Encoded.bitR16 a b
  | .bitR24 a b => Encoded.bitR24 a b
  | .bitR32 a b => Encoded.bitR32 a b
  | .getbitsI8 a b n => Encoded.getbitsI8 a b n
  | .getbitsI16 a b n => Encoded.getbitsI16 a b n
  | .getbitsI24 a b n => Encoded.getbitsI24 a b n
  | .getbitsI32 a b n => Encoded.getbitsI32 a b n
  | .getbitsR8 a b c => Encoded.getbitsR8 a b c
  | .getbitsR16 a b c => Encoded.getbitsR16 a b c
  | .getbitsR24 a b c => Encoded.getbitsR24 a b c
  | .getbitsR32 a b c => Encoded.getbitsR32 a b c
  | .setbitsI8 a b n => Encoded.setbitsI8 a b n
  | .setbitsI16 a b n => Encoded.setbitsI16 a b n
  | .setbitsI24 a b n => Encoded.setbitsI24 a b n
  | .setbitsI32 a b n => Encoded.setbitsI32 a b n
  | .setbitsR8 a b c => Encoded.setbitsR8 a b c
  | .setbitsR16 a b c => Encoded.setbitsR16 a b c
  | .setbitsR24 a b c => Encoded.setbitsR24 a b c
  | .setbitsR32 a b c => Encoded.setbitsR32 a b c
  | .jpImm addr => Encoded.jpImm addr
  | .jpReg r => Encoded.jpReg r
  | .jpCond flag addr => Encoded.jpCond flag addr
  | .jrRel off => Encoded.jrRel off
  | .callImm addr => Encoded.callImm addr
  | .callReg r => Encoded.callReg r
  | .callCond flag addr => Encoded.callCond flag addr
  | .callrRel off => Encoded.callrRel off
  | .ret => Encoded.ret
  | .retif flag => Encoded.retif flag
  | .scpRR8 a b => Encoded.scpRR8 a b
  | .scpRR16 a b => Encoded.scpRR16 a b
  | .scpRR24 a b => Encoded.scpRR24 a b
  | .scpRR32 a b => Encoded.scpRR32 a b
  | .scpRI8 a imm => Encoded.scpRI8 a imm
  | .scpRI16 a imm => Encoded.scpRI16 a imm
  | .scpRI24 a imm => Encoded.scpRI24 a imm
  | .scpRI32 a imm => Encoded.scpRI32 a imm
  | .scpRMr8 a b => Encoded.scpRMr8 a b
  | .scpRMr16 a b => Encoded.scpRMr16 a b
  | .scpRMr24 a b => Encoded.scpRMr24 a b
  | .scpRMr32 a b => Encoded.scpRMr32 a b
  | .scpRMa8 a addr => Encoded.scpRMa8 a addr
  | .scpRMa16 a addr => Encoded.scpRMa16 a addr
  | .scpRMa24 a addr => Encoded.scpRMa24 a addr
  | .scpRMa32 a addr => Encoded.scpRMa32 a addr
  | .scpMrR8 a b => Encoded.scpMrR8 a b
  | .scpMrR16 a b => Encoded.scpMrR16 a b
  | .scpMrR24 a b => Encoded.scpMrR24 a b
  | .scpMrR32 a b => Encoded.scpMrR32 a b
  | .scpMaR8 addr a => Encoded.scpMaR8 addr a
  | .scpMaR16 addr a => Encoded.scpMaR16 addr a
  | .scpMaR24 addr a => Encoded.scpMaR24 addr a
  | .scpMaR32 addr a => Encoded.scpMaR32 addr a
  | .scpMrI8 a imm => Encoded.scpMrI8 a imm
  | .scpMrI16 a imm => Encoded.scpMrI16 a imm
  | .scpMrI24 a imm => Encoded.scpMrI24 a imm
  | .scpMrI32 a imm => Encoded.scpMrI32 a imm
  | .scpMaI8 addr imm => Encoded.scpMaI8 addr imm
  | .scpMaI16 addr imm => Encoded.scpMaI16 addr imm
  | .scpMaI24 addr imm => Encoded.scpMaI24 addr imm
  | .scpMaI32 addr imm => Encoded.scpMaI32 addr imm
  | .sqrFF fa fb => Encoded.sqrFF fa fb
  | .sqrFR8 fb a => Encoded.sqrFR8 fb a
  | .sqrFR16 fb a => Encoded.sqrFR16 fb a
  | .sqrFR24 fb a => Encoded.sqrFR24 fb a
  | .sqrFR32 fb a => Encoded.sqrFR32 fb a
  | .sqrRF8 a fb => Encoded.sqrRF8 a fb
  | .sqrRF16 a fb => Encoded.sqrRF16 a fb
  | .sqrRF24 a fb => Encoded.sqrRF24 a fb
  | .sqrRF32 a fb => Encoded.sqrRF32 a fb
  | .sqrFMr fb a => Encoded.sqrFMr fb a
  | .sqrMrF a fb => Encoded.sqrMrF a fb
  | .sqrFMa fa addr => Encoded.sqrFMa fa addr
  | .sqrMaF addr fa => Encoded.sqrMaF addr fa
  | .cbrFF fa fb => Encoded.cbrFF fa fb
  | .cbrFR8 fb a => Encoded.cbrFR8 fb a
  | .cbrFR16 fb a => Encoded.cbrFR16 fb a
  | .cbrFR24 fb a => Encoded.cbrFR24 fb a
  | .cbrFR32 fb a => Encoded.cbrFR32 fb a
  | .cbrRF8 a fb => Encoded.cbrRF8 a fb
  | .cbrRF16 a fb => Encoded.cbrRF16 a fb
  | .cbrRF24 a fb => Encoded.cbrRF24 a fb
  | .cbrRF32 a fb => Encoded.cbrRF32 a fb
  | .cbrFMr fb a => Encoded.cbrFMr fb a
  | .cbrMrF a fb => Encoded.cbrMrF a fb
  | .cbrFMa fa addr => Encoded.cbrFMa fa addr
  | .cbrMaF addr fa => Encoded.cbrMaF addr fa
  | .powFF fa fb => Encoded.powFF fa fb
  | .powFR8 fb a => Encoded.powFR8 fb a
  | .powFR16 fb a => Encoded.powFR16 fb a
  | .powFR24 fb a => Encoded.powFR24 fb a
  | .powFR32 fb a => Encoded.powFR32 fb a
  | .powRF8 a fb => Encoded.powRF8 a fb
  | .powRF16 a fb => Encoded.powRF16 a fb
  | .powRF24 a fb => Encoded.powRF24 a fb
  | .powRF32 a fb => Encoded.powRF32 a fb
  | .powFMr fb a => Encoded.powFMr fb a
  | .powMrF a fb => Encoded.powMrF a fb
  | .powFMa fa addr => Encoded.powFMa fa addr
  | .powMaF addr fa => Encoded.powMaF addr fa
  | .sinFF fa fb => Encoded.sinFF fa fb
  | .sinFR8 fb a => Encoded.sinFR8 fb a
  | .sinFR16 fb a => Encoded.sinFR16 fb a
  | .sinFR24 fb a => Encoded.sinFR24 fb a
  | .sinFR32 fb a => Encoded.sinFR32 fb a
  | .sinRF8 a fb => Encoded.sinRF8 a fb
  | .sinRF16 a fb => Encoded.sinRF16 a fb
  | .sinRF24 a fb => Encoded.sinRF24 a fb
  | .sinRF32 a fb => Encoded.sinRF32 a fb
  | .sinFMr fb a => Encoded.sinFMr fb a
  | .sinMrF a fb => Encoded.sinMrF a fb
  | .sinFMa fa addr => Encoded.sinFMa fa addr
  | .sinMaF addr fa => Encoded.sinMaF addr fa
  | .floorFF fa fb => Encoded.floorFF fa fb
  | .floorFR8 fb a => Encoded.floorFR8 fb a
  | .floorFR16 fb a => Encoded.floorFR16 fb a
  | .floorFR24 fb a => Encoded.floorFR24 fb a
  | .floorFR32 fb a => Encoded.floorFR32 fb a
  | .floorRF8 a fb => Encoded.floorRF8 a fb
  | .floorRF16 a fb => Encoded.floorRF16 a fb
  | .floorRF24 a fb => Encoded.floorRF24 a fb
  | .floorRF32 a fb => Encoded.floorRF32 a fb
  | .floorFMr fb a => Encoded.floorFMr fb a
  | .floorMrF a fb => Encoded.floorMrF a fb
  | .floorFMa fa addr => Encoded.floorFMa fa addr
  | .floorMaF addr fa => Encoded.floorMaF addr fa
  | .roundFF fa fb => Encoded.roundFF fa fb
  | .roundFR8 fb a => Encoded.roundFR8 fb a
  | .roundFR16 fb a => Encoded.roundFR16 fb a
  | .roundFR24 fb a => Encoded.roundFR24 fb a
  | .roundFR32 fb a => Encoded.roundFR32 fb a
  | .roundRF8 a fb => Encoded.roundRF8 a fb
  | .roundRF16 a fb => Encoded.roundRF16 a fb
  | .roundRF24 a fb => Encoded.roundRF24 a fb
  | .roundRF32 a fb => Encoded.roundRF32 a fb
  | .roundFMr fb a => Encoded.roundFMr fb a
  | .roundMrF a fb => Encoded.roundMrF a fb
  | .roundFMa fa addr => Encoded.roundFMa fa addr
  | .roundMaF addr fa => Encoded.roundMaF addr fa
  | .memcRRR a b c => Encoded.memcRRR a b c
  | .memcRRI a b len => Encoded.memcRRI a b len
  | .memcRIR a dst c => Encoded.memcRIR a dst c
  | .memcRII a dst len => Encoded.memcRII a dst len
  | .memcIRR src b c => Encoded.memcIRR src b c
  | .memcIRI src b len => Encoded.memcIRI src b len
  | .memcIIR src dst c => Encoded.memcIIR src dst c
  | .memcIII src dst len => Encoded.memcIII src dst len
  | .memfRRR a b c => Encoded.memfRRR a b c
  | .memfRRI a b len => Encoded.memfRRI a b len
  | .memfRIR a addr c => Encoded.memfRIR a addr c
  | .memfRII a addr len => Encoded.memfRII a addr len
  | .memfIRR val b c => Encoded.memfIRR val b c
  | .memfIRI val b len => Encoded.memfIRI val b len
  | .memfIIR val addr c => Encoded.memfIIR val addr c
  | .memfIII val addr len => Encoded.memfIII val addr len
  | .findBI a n => Encoded.findBI a n
  | .findBR a b => Encoded.findBR a b
  | .findPA a addr => Encoded.findPA a addr
  | .findPR a b => Encoded.findPR a b
  | .ldregsMa a b addr => Encoded.ldregsMa a b addr
  | .ldregsMr a b c => Encoded.ldregsMr a b c
  | .stregsMa a b addr => Encoded.stregsMa a b addr
  | .stregsMr a b c => Encoded.stregsMr a b c
  | .ex8 a b => Encoded.ex8 a b
  | .ex16 a b => Encoded.ex16 a b
  | .ex24 a b => Encoded.ex24 a b
  | .ex32 a b => Encoded.ex32 a b
  | .bankselI n => Encoded.bankselI n
  | .bankselR r => Encoded.bankselR r
  | .rand8 a => Encoded.rand8 a
  | .rand16 a => Encoded.rand16 a
  | .rand24 a => Encoded.rand24 a
  | .rand32 a => Encoded.rand32 a
  | .randSeedI seed => Encoded.randSeedI seed
  | .randSeedR a => Encoded.randSeedR a
  | .waitI ms => Encoded.waitI ms
  | .waitR r => Encoded.waitR r
  | .setvarII index value => Encoded.setvarII index value
  | .setvarRI a value => Encoded.setvarRI a value
  | .setvarIR index b => Encoded.setvarIR index b
  | .setvarRR a b => Encoded.setvarRR a b
  | .getvarI a index => Encoded.getvarI a index
  | .getvarR a b => Encoded.getvarR a b
  | .smulRR8 a b => Encoded.smulRR8 a b
  | .smulRR16 a b => Encoded.smulRR16 a b
  | .smulRR24 a b => Encoded.smulRR24 a b
  | .smulRR32 a b => Encoded.smulRR32 a b
  | .smulRI8 a imm => Encoded.smulRI8 a imm
  | .smulRI16 a imm => Encoded.smulRI16 a imm
  | .smulRI24 a imm => Encoded.smulRI24 a imm
  | .smulRI32 a imm => Encoded.smulRI32 a imm
  | .play => Encoded.play
  | .vclI n => Encoded.vclI n
  | .vclR r => Encoded.vclR r
  | .vdlI n => Encoded.vdlI n
  | .vdlR r => Encoded.vdlR r
  | .int r n arg => Encoded.int r n arg
  | .brk => Encoded.brk

/-- Every instruction does what its family may do. -/
theorem Executed.all : ∀ i : Instr, Executed.Statement i
  | .andRR8 a b => Executed.andRR8 a b
  | .andRR16 a b => Executed.andRR16 a b
  | .andRR24 a b => Executed.andRR24 a b
  | .andRR32 a b => Executed.andRR32 a b
  | .andRI8 a imm => Executed.andRI8 a imm
  | .andRI16 a imm => Executed.andRI16 a imm
  | .andRI24 a imm => Executed.andRI24 a imm
  | .andRI32 a imm => Executed.andRI32 a imm
  | .andRMr8 a b => Executed.andRMr8 a b
  | .andRMr16 a b => Executed.andRMr16 a b
  | .andRMr24 a b => Executed.andRMr24 a b
  | .andRMr32 a b => Executed.andRMr32 a b
  | .andRMa8 a addr => Executed.andRMa8 a addr
  | .andRMa16 a addr => Executed.andRMa16 a addr
  | .andRMa24 a addr => Executed.andRMa24 a addr
  | .andRMa32 a addr => Executed.andRMa32 a addr
  | .andMrR8 a b => Executed.andMrR8 a b
  | .andMrR16 a b => Executed.andMrR16 a b
  | .andMrR24 a b => Executed.andMrR24 a b
  | .andMrR32 a b => Executed.andMrR32 a b
  | .andMaR8 addr a => Executed.andMaR8 addr a
  | .andMaR16 addr a => Executed.andMaR16 addr a
  | .andMaR24 addr a => Executed.andMaR24 addr a
  | .andMaR32 addr a => Executed.andMaR32 addr a
  | .andMrI8 a imm => Executed.andMrI8 a imm
  | .andMrI16 a imm => Executed.andMrI16 a imm
  | .andMrI24 a imm => Executed.andMrI24 a imm
  | .andMrI32 a imm => Executed.andMrI32 a imm
  | .andMaI8 addr imm => Executed.andMaI8 addr imm
  | .andMaI16 addr imm => Executed.andMaI16 addr imm
  | .andMaI24 addr imm => Executed.andMaI24 addr imm
  | .andMaI32 addr imm => Executed.andMaI32 addr imm
  | .orRR8 a b => Executed.orRR8 a b
  | .orRR16 a b => Executed.orRR16 a b
  | .orRR24 a b => Executed.orRR24 a b
  | .orRR32 a b => Executed.orRR32 a b
  | .orRI8 a imm => Executed.orRI8 a imm
  | .orRI16 a imm => Executed.orRI16 a imm
  | .orRI24 a imm => Executed.orRI24 a imm
  | .orRI32 a imm => Executed.orRI32 a imm
  | .orRMr8 a b => Executed.orRMr8 a b
  | .orRMr16 a b => Executed.orRMr16 a b
  | .orRMr24 a b => Executed.orRMr24 a b
  | .orRMr32 a b => Executed.orRMr32 a b
  | .orRMa8 a addr => Executed.orRMa8 a addr
  | .orRMa16 a addr => Executed.orRMa16 a addr
  | .orRMa24 a addr => Executed.orRMa24 a addr
  | .orRMa32 a addr => Executed.orRMa32 a addr
  | .orMrR8 a b => Executed.orMrR8 a b
  | .orMrR16 a b => Executed.orMrR16 a b
  | .orMrR24 a b => Executed.orMrR24 a b
  | .orMrR32 a b => Executed.orMrR32 a b
  | .orMaR8 addr a => Executed.orMaR8 addr a
  | .orMaR16 addr a => Executed.orMaR16 addr a
  | .orMaR24 addr a => Executed.orMaR24 addr a
  | .orMaR32 addr a => Executed.orMaR32 addr a
  | .orMrI8 a imm => Executed.orMrI8 a imm
  | .orMrI16 a imm => Executed.orMrI16 a imm
  | .orMrI24 a imm => Executed.orMrI24 a imm
  | .orMrI32 a imm => Executed.orMrI32 a imm
  | .orMaI8 addr imm => Executed.orMaI8 addr imm
  | .orMaI16 addr imm => Executed.orMaI16 addr imm
  | .orMaI24 addr imm => Executed.orMaI24 addr imm
  | .orMaI32 addr imm => Executed.orMaI32 addr imm
  | .xorRR8 a b => Executed.xorRR8 a b
  | .xorRR16 a b => Executed.xorRR16 a b
  | .xorRR24 a b => Executed.xorRR24 a b
  | .xorRR32 a b => Executed.xorRR32 a b
  | .xorRI8 a imm => Executed.xorRI8 a imm
  | .xorRI16 a imm => Executed.xorRI16 a imm
  | .xorRI24 a imm => Executed.xorRI24 a imm
  | .xorRI32 a imm => Executed.xorRI32 a imm
  | .xorRMr8 a b => Executed.xorRMr8 a b
  | .xorRMr16 a b => Executed.xorRMr16 a b
  | .xorRMr24 a b => Executed.xorRMr24 a b
  | .xorRMr32 a b => Executed.xorRMr32 a b
  | .xorRMa8 a addr => Executed.xorRMa8 a addr
  | .xorRMa16 a addr => Executed.xorRMa16 a addr
  | .xorRMa24 a addr => Executed.xorRMa24 a addr
  | .xorRMa32 a addr => Executed.xorRMa32 a addr
  | .xorMrR8 a b => Executed.xorMrR8 a b
  | .xorMrR16 a b => Executed.xorMrR16 a b
  | .xorMrR24 a b => Executed.xorMrR24 a b
  | .xorMrR32 a b => Executed.xorMrR32 a b
  | .xorMaR8 addr a => Executed.xorMaR8 addr a
  | .xorMaR16 addr a => Executed.xorMaR16 addr a
  | .xorMaR24 addr a => Executed.xorMaR24 addr a
  | .xorMaR32 addr a => Executed.xorMaR32 addr a
  | .xorMrI8 a imm => Executed.xorMrI8 a imm
  | .xorMrI16 a imm => Executed.xorMrI16 a imm
  | .xorMrI24 a imm => Executed.xorMrI24 a imm
  | .xorMrI32 a imm => Executed.xorMrI32 a imm
  | .xorMaI8 addr imm => Executed.xorMaI8 addr imm
  | .xorMaI16 addr imm => Executed.xorMaI16 addr imm
  | .xorMaI24 addr imm => Executed.xorMaI24 addr imm
  | .xorMaI32 addr imm => Executed.xorMaI32 addr imm
  | .norRR8 a b => Executed.norRR8 a b
  | .norRR16 a b => Executed.norRR16 a b
  | .norRR24 a b => Executed.norRR24 a b
  | .norRR32 a b => Executed.norRR32 a b
  | .norRI8 a imm => Executed.norRI8 a imm
  | .norRI16 a imm => Executed.norRI16 a imm
  | .norRI24 a imm => Executed.norRI24 a imm
  | .norRI32 a imm => Executed.norRI32 a imm
  | .norRMr8 a b => Executed.norRMr8 a b
  | .norRMr16 a b => Executed.norRMr16 a b
  | .norRMr24 a b => Executed.norRMr24 a b
  | .norRMr32 a b => Executed.norRMr32 a b
  | .norRMa8 a addr => Executed.norRMa8 a addr
  | .norRMa16 a addr => Executed.norRMa16 a addr
  | .norRMa24 a addr => Executed.norRMa24 a addr
  | .norRMa32 a addr => Executed.norRMa32 a addr
  | .norMrR8 a b => Executed.norMrR8 a b
  | .norMrR16 a b => Executed.norMrR16 a b
  | .norMrR24 a b => Executed.norMrR24 a b
  | .norMrR32 a b => Executed.norMrR32 a b
  | .norMaR8 addr a => Executed.norMaR8 addr a
  | .norMaR16 addr a => Executed.norMaR16 addr a
  | .norMaR24 addr a => Executed.norMaR24 addr a
  | .norMaR32 addr a => Executed.norMaR32 addr a
  | .norMrI8 a imm => Executed.norMrI8 a imm
  | .norMrI16 a imm => Executed.norMrI16 a imm
  | .norMrI24 a imm => Executed.norMrI24 a imm
  | .norMrI32 a imm => Executed.norMrI32 a imm
  | .norMaI8 addr imm => Executed.norMaI8 addr imm
  | .norMaI16 addr imm => Executed.norMaI16 addr imm
  | .norMaI24 addr imm => Executed.norMaI24 addr imm
  | .norMaI32 addr imm => Executed.norMaI32 addr imm
  | .minRR8 a b => Executed.minRR8 a b
  | .minRR16 a b => Executed.minRR16 a b
  | .minRR24 a b => Executed.minRR24 a b
  | .minRR32 a b => Executed.minRR32 a b
  | .minRI8 a imm => Executed.minRI8 a imm
  | .minRI16 a imm => Executed.minRI16 a imm
  | .minRI24 a imm => Executed.minRI24 a imm
  | .minRI32 a imm => Executed.minRI32 a imm
  | .minRMr8 a b => Executed.minRMr8 a b
  | .minRMr16 a b => Executed.minRMr16 a b
  | .minRMr24 a b => Executed.minRMr24 a b
  | .minRMr32 a b => Executed.minRMr32 a b
  | .minRMa8 a addr => Executed.minRMa8 a addr
  | .minRMa16 a addr => Executed.minRMa16 a addr
  | .minRMa24 a addr => Executed.minRMa24 a addr
  | .minRMa32 a addr => Executed.minRMa32 a addr
  | .minMrR8 a b => Executed.minMrR8 a b
  | .minMrR16 a b => Executed.minMrR16 a b
  | .minMrR24 a b => Executed.minMrR24 a b
  | .minMrR32 a b => Executed.minMrR32 a b
  | .minMaR8 addr a => Executed.minMaR8 addr a
  | .minMaR16 addr a => Executed.minMaR16 addr a
  | .minMaR24 addr a => Executed.minMaR24 addr a
  | .minMaR32 addr a => Executed.minMaR32 addr a
  | .minMrI8 a imm => Executed.minMrI8 a imm
  | .minMrI16 a imm => Executed.minMrI16 a imm
  | .minMrI24 a imm => Executed.minMrI24 a imm
  | .minMrI32 a imm => Executed.minMrI32 a imm
  | .minMaI8 addr imm => Executed.minMaI8 addr imm
  | .minMaI16 addr imm => Executed.minMaI16 addr imm
  | .minMaI24 addr imm => Executed.minMaI24 addr imm
  | .minMaI32 addr imm => Executed.minMaI32 addr imm
  | .minRF8 a fb => Executed.minRF8 a fb
  | .minRF16 a fb => Executed.minRF16 a fb
  | .minRF24 a fb => Executed.minRF24 a fb
  | .minRF32 a fb => Executed.minRF32 a fb
  | .minFF fa fb => Executed.minFF fa fb
  | .maxRR8 a b => Executed.maxRR8 a b
  | .maxRR16 a b => Executed.maxRR16 a b
  | .maxRR24 a b => Executed.maxRR24 a b
  | .maxRR32 a b => Executed.maxRR32 a b
  | .maxRI8 a imm => Executed.maxRI8 a imm
  | .maxRI16 a imm => Executed.maxRI16 a imm
  | .maxRI24 a imm => Executed.maxRI24 a imm
  | .maxRI32 a imm => Executed.maxRI32 a imm
  | .maxRMr8 a b => Executed.maxRMr8 a b
  | .maxRMr16 a b => Executed.maxRMr16 a b
  | .maxRMr24 a b => Executed.maxRMr24 a b
  | .maxRMr32 a b => Executed.maxRMr32 a b
  | .maxRMa8 a addr => Executed.maxRMa8 a addr
  | .maxRMa16 a addr => Executed.maxRMa16 a addr
  | .maxRMa24 a addr => Executed.maxRMa24 a addr
  | .maxRMa32 a addr => Executed.maxRMa32 a addr
  | .maxMrR8 a b => Executed.maxMrR8 a b
  | .maxMrR16 a b => Executed.maxMrR16 a b
  | .maxMrR24 a b => Executed.maxMrR24 a b
  | .maxMrR32 a b => Executed.maxMrR32 a b
  | .maxMaR8 addr a => Executed.maxMaR8 addr a
  | .maxMaR16 addr a => Executed.maxMaR16 addr a
  | .maxMaR24 addr a => Executed.maxMaR24 addr a
  | .maxMaR32 addr a => Executed.maxMaR32 addr a
  | .maxMrI8 a imm => Executed.maxMrI8 a imm
  | .maxMrI16 a imm => Executed.maxMrI16 a imm
  | .maxMrI24 a imm => Executed.maxMrI24 a imm
  | .maxMrI32 a imm => Executed.maxMrI32 a imm
  | .maxMaI8 addr imm => Executed.maxMaI8 addr imm
  | .maxMaI16 addr imm => Executed.maxMaI16 addr imm
  | .maxMaI24 addr imm => Executed.maxMaI24 addr imm
  | .maxMaI32 addr imm => Executed.maxMaI32 addr imm
  | .maxRF8 a fb => Executed.maxRF8 a fb
  | .maxRF16 a fb => Executed.maxRF16 a fb
  | .maxRF24 a fb => Executed.maxRF24 a fb
  | .maxRF32 a fb => Executed.maxRF32 a fb
  | .maxFF fa fb => Executed.maxFF fa fb
  | .incR8 a => Executed.incR8 a
  | .incR16 a => Executed.incR16 a
  | .incR24 a => Executed.incR24 a
  | .incR32 a => Executed.incR32 a
  | .incMr8 a => Executed.incMr8 a
  | .incMr16 a => Executed.incMr16 a
  | .incMr24 a => Executed.incMr24 a
  | .incMr32 a => Executed.incMr32 a
  | .incMa8 addr => Executed.incMa8 addr
  | .incMa16 addr => Executed.incMa16 addr
  | .incMa24 addr => Executed.incMa24 addr
  | .incMa32 addr => Executed.incMa32 addr
  | .decR8 a => Executed.decR8 a
  | .decR16 a => Executed.decR16 a
  | .decR24 a => Executed.decR24 a
  | .decR32 a => Executed.decR32 a
  | .decMr8 a => Executed.decMr8 a
  | .decMr16 a => Executed.decMr16 a
  | .decMr24 a => Executed.decMr24 a
  | .decMr32 a => Executed.decMr32 a
  | .decMa8 addr => Executed.decMa8 addr
  | .decMa16 addr => Executed.decMa16 addr
  | .decMa24 addr => Executed.decMa24 addr
  | .decMa32 addr => Executed.decMa32 addr
  | .invR8 a => Executed.invR8 a
  | .invR16 a => Executed.invR16 a
  | .invR24 a => Executed.invR24 a
  | .invR32 a => Executed.invR32 a
  | .slI8 a n => Executed.slI8 a n
  | .slI16 a n => Executed.slI16 a n
  | .slI24 a n => Executed.slI24 a n
  | .slI32 a n => Executed.slI32 a n
  | .slR8 a b => Executed.slR8 a b
  | .slR16 a b => Executed.slR16 a b
  | .slR24 a b => Executed.slR24 a b
  | .slR32 a b => Executed.slR32 a b
  | .srI8 a n => Executed.srI8 a n
  | .srI16 a n => Executed.srI16 a n
  | .srI24 a n => Executed.srI24 a n
  | .srI32 a n => Executed.srI32 a n
  | .srR8 a b => Executed.srR8 a b
  | .srR16 a b => Executed.srR16 a b
  | .srR24 a b => Executed.srR24 a b
  | .srR32 a b => Executed.srR32 a b
  | .rlI8 a n => Executed.rlI8 a n
  | .rlI16 a n => Executed.rlI16 a n
  | .rlI24 a n => Executed.rlI24 a n
  | .rlI32 a n => Executed.rlI32 a n
  | .rlR8 a b => Executed.rlR8 a b
  | .rlR16 a b => Executed.rlR16 a b
  | .rlR24 a b => Executed.rlR24 a b
  | .rlR32 a b => Executed.rlR32 a b
  | .rrI8 a n => Executed.rrI8 a n
  | .rrI16 a n => Executed.rrI16 a n
  | .rrI24 a n => Executed.rrI24 a n
  | .rrI32 a n => Executed.rrI32 a n
  | .rrR8 a b => Executed.rrR8 a b
  | .rrR16 a b => Executed.rrR16 a b
  | .rrR24 a b => Executed.rrR24 a b
  | .rrR32 a b => Executed.rrR32 a b
  | .setI8 a n => Executed.setI8 a n
  | .setI16 a n => Executed.setI16 a n
  | .setI24 a n => Executed.setI24 a n
  | .setI32 a n => Executed.setI32 a n
  | .setR8 a b => Executed.setR8 a b
  | .setR16 a b => Executed.setR16 a b
  | .setR24 a b => Executed.setR24 a b
  | .setR32 a b => Executed.setR32 a b
  | .resI8 a n => Executed.resI8 a n
  | .resI16 a n => Executed.resI16 a n
  | .resI24 a n => Executed.resI24 a n
  | .resI32 a n => Executed.resI32 a n
  | .resR8 a b => Executed.resR8 a b
  | .resR16 a b => Executed.resR16 a b
  | .resR24 a b => Executed.resR24 a b
  | .resR32 a b => Executed.resR32 a b
  | .bitI8 a n => Executed.bitI8 a n
  | .bitI16 a n => Executed.bitI16 a n
  | .bitI24 a n => Executed.bitI24 a n
  | .bitI32 a n => Executed.bitI32 a n
  | .bitR8 a b => Executed.bitR8 a b
  | .bitR16 a b => Executed.bitR16 a b
  | .bitR24 a b => Executed.bitR24 a b
  | .bitR32 a b => Executed.bitR32 a b
  | .getbitsI8 a b n => Executed.getbitsI8 a b n
  | .getbitsI16 a b n => Executed.getbitsI16 a b n
  | .getbitsI24 a b n => Executed.getbitsI24 a b n
  | .getbitsI32 a b n => Executed.getbitsI32 a b n
  | .getbitsR8 a b c => Executed.getbitsR8 a b c
  | .getbitsR16 a b c => Executed.getbitsR16 a b c
  | .getbitsR24 a b c => Executed.getbitsR24 a b c
  | .getbitsR32 a b c => Executed.getbitsR32 a b c
  | .setbitsI8 a b n => Executed.setbitsI8 a b n
  | .setbitsI16 a b n => Executed.setbitsI16 a b n
  | .setbitsI24 a b n => Executed.setbitsI24 a b n
  | .setbitsI32 a b n => Executed.setbitsI32 a b n
  | .setbitsR8 a b c => Executed.setbitsR8 a b c
  | .setbitsR16 a b c => Executed.setbitsR16 a b c
  | .setbitsR24 a b c => Executed.setbitsR24 a b c
  | .setbitsR32 a b c => Executed.setbitsR32 a b c
  | .jpImm addr => Executed.jpImm addr
  | .jpReg r => Executed.jpReg r
  | .jpCond flag addr => Executed.jpCond flag addr
  | .jrRel off => Executed.jrRel off
  | .callImm addr => Executed.callImm addr
  | .callReg r => Executed.callReg r
  | .callCond flag addr => Executed.callCond flag addr
  | .callrRel off => Executed.callrRel off
  | .ret => Executed.ret
  | .retif flag => Executed.retif flag
  | .scpRR8 a b => Executed.scpRR8 a b
  | .scpRR16 a b => Executed.scpRR16 a b
  | .scpRR24 a b => Executed.scpRR24 a b
  | .scpRR32 a b => Executed.scpRR32 a b
  | .scpRI8 a imm => Executed.scpRI8 a imm
  | .scpRI16 a imm => Executed.scpRI16 a imm
  | .scpRI24 a imm => Executed.scpRI24 a imm
  | .scpRI32 a imm => Executed.scpRI32 a imm
  | .scpRMr8 a b => Executed.scpRMr8 a b
  | .scpRMr16 a b => Executed.scpRMr16 a b
  | .scpRMr24 a b => Executed.scpRMr24 a b
  | .scpRMr32 a b => Executed.scpRMr32 a b
  | .scpRMa8 a addr => Executed.scpRMa8 a addr
  | .scpRMa16 a addr => Executed.scpRMa16 a addr
  | .scpRMa24 a addr => Executed.scpRMa24 a addr
  | .scpRMa32 a addr => Executed.scpRMa32 a addr
  | .scpMrR8 a b => Executed.scpMrR8 a b
  | .scpMrR16 a b => Executed.scpMrR16 a b
  | .scpMrR24 a b => Executed.scpMrR24 a b
  | .scpMrR32 a b => Executed.scpMrR32 a b
  | .scpMaR8 addr a => Executed.scpMaR8 addr a
  | .scpMaR16 addr a => Executed.scpMaR16 addr a
  | .scpMaR24 addr a => Executed.scpMaR24 addr a
  | .scpMaR32 addr a => Executed.scpMaR32 addr a
  | .scpMrI8 a imm => Executed.scpMrI8 a imm
  | .scpMrI16 a imm => Executed.scpMrI16 a imm
  | .scpMrI24 a imm => Executed.scpMrI24 a imm
  | .scpMrI32 a imm => Executed.scpMrI32 a imm
  | .scpMaI8 addr imm => Executed.scpMaI8 addr imm
  | .scpMaI16 addr imm => Executed.scpMaI16 addr imm
  | .scpMaI24 addr imm => Executed.scpMaI24 addr imm
  | .scpMaI32 addr imm => Executed.scpMaI32 addr imm
  | .sqrFF fa fb => Executed.sqrFF fa fb
  | .sqrFR8 fb a => Executed.sqrFR8 fb a
  | .sqrFR16 fb a => Executed.sqrFR16 fb a
  | .sqrFR24 fb a => Executed.sqrFR24 fb a
  | .sqrFR32 fb a => Executed.sqrFR32 fb a
  | .sqrRF8 a fb => Executed.sqrRF8 a fb
  | .sqrRF16 a fb => Executed.sqrRF16 a fb
  | .sqrRF24 a fb => Executed.sqrRF24 a fb
  | .sqrRF32 a fb => Executed.sqrRF32 a fb
  | .sqrFMr fb a => Executed.sqrFMr fb a
  | .sqrMrF a fb => Executed.sqrMrF a fb
  | .sqrFMa fa addr => Executed.sqrFMa fa addr
  | .sqrMaF addr fa => Executed.sqrMaF addr fa
  | .cbrFF fa fb => Executed.cbrFF fa fb
  | .cbrFR8 fb a => Executed.cbrFR8 fb a
  | .cbrFR16 fb a => Executed.cbrFR16 fb a
  | .cbrFR24 fb a => Executed.cbrFR24 fb a
  | .cbrFR32 fb a => Executed.cbrFR32 fb a
  | .cbrRF8 a fb => Executed.cbrRF8 a fb
  | .cbrRF16 a fb => Executed.cbrRF16 a fb
  | .cbrRF24 a fb => Executed.cbrRF24 a fb
  | .cbrRF32 a fb => Executed.cbrRF32 a fb
  | .cbrFMr fb a => Executed.cbrFMr fb a
  | .cbrMrF a fb => Executed.cbrMrF a fb
  | .cbrFMa fa addr => Executed.cbrFMa fa addr
  | .cbrMaF addr fa => Executed.cbrMaF addr fa
  | .powFF fa fb => Executed.powFF fa fb
  | .powFR8 fb a => Executed.powFR8 fb a
  | .powFR16 fb a => Executed.powFR16 fb a
  | .powFR24 fb a => Executed.powFR24 fb a
  | .powFR32 fb a => Executed.powFR32 fb a
  | .powRF8 a fb => Executed.powRF8 a fb
  | .powRF16 a fb => Executed.powRF16 a fb
  | .powRF24 a fb => Executed.powRF24 a fb
  | .powRF32 a fb => Executed.powRF32 a fb
  | .powFMr fb a => Executed.powFMr fb a
  | .powMrF a fb => Executed.powMrF a fb
  | .powFMa fa addr => Executed.powFMa fa addr
  | .powMaF addr fa => Executed.powMaF addr fa
  | .sinFF fa fb => Executed.sinFF fa fb
  | .sinFR8 fb a => Executed.sinFR8 fb a
  | .sinFR16 fb a => Executed.sinFR16 fb a
  | .sinFR24 fb a => Executed.sinFR24 fb a
  | .sinFR32 fb a => Executed.sinFR32 fb a
  | .sinRF8 a fb => Executed.sinRF8 a fb
  | .sinRF16 a fb => Executed.sinRF16 a fb
  | .sinRF24 a fb => Executed.sinRF24 a fb
  | .sinRF32 a fb => Executed.sinRF32 a fb
  | .sinFMr fb a => Executed.sinFMr fb a
  | .sinMrF a fb => Executed.sinMrF a fb
  | .sinFMa fa addr => Executed.sinFMa fa addr
  | .sinMaF addr fa => Executed.sinMaF addr fa
  | .floorFF fa fb => Executed.floorFF fa fb
  | .floorFR8 fb a => Executed.floorFR8 fb a
  | .floorFR16 fb a => Executed.floorFR16 fb a
  | .floorFR24 fb a => Executed.floorFR24 fb a
  | .floorFR32 fb a => Executed.floorFR32 fb a
  | .floorRF8 a fb => Executed.floorRF8 a fb
  | .floorRF16 a fb => Executed.floorRF16 a fb
  | .floorRF24 a fb => Executed.floorRF24 a fb
  | .floorRF32 a fb => Executed.floorRF32 a fb
  | .floorFMr fb a => Executed.floorFMr fb a
  | .floorMrF a fb => Executed.floorMrF a fb
  | .floorFMa fa addr => Executed.floorFMa fa addr
  | .floorMaF addr fa => Executed.floorMaF addr fa
  | .roundFF fa fb => Executed.roundFF fa fb
  | .roundFR8 fb a => Executed.roundFR8 fb a
  | .roundFR16 fb a => Executed.roundFR16 fb a
  | .roundFR24 fb a => Executed.roundFR24 fb a
  | .roundFR32 fb a => Executed.roundFR32 fb a
  | .roundRF8 a fb => Executed.roundRF8 a fb
  | .roundRF16 a fb => Executed.roundRF16 a fb
  | .roundRF24 a fb => Executed.roundRF24 a fb
  | .roundRF32 a fb => Executed.roundRF32 a fb
  | .roundFMr fb a => Executed.roundFMr fb a
  | .roundMrF a fb => Executed.roundMrF a fb
  | .roundFMa fa addr => Executed.roundFMa fa addr
  | .roundMaF addr fa => Executed.roundMaF addr fa
  | .memcRRR a b c => Executed.memcRRR a b c
  | .memcRRI a b len => Executed.memcRRI a b len
  | .memcRIR a dst c => Executed.memcRIR a dst c
  | .memcRII a dst len => Executed.memcRII a dst len
  | .memcIRR src b c => Executed.memcIRR src b c
  | .memcIRI src b len => Executed.memcIRI src b len
  | .memcIIR src dst c => Executed.memcIIR src dst c
  | .memcIII src dst len => Executed.memcIII src dst len
  | .memfRRR a b c => Executed.memfRRR a b c
  | .memfRRI a b len => Executed.memfRRI a b len
  | .memfRIR a addr c => Executed.memfRIR a addr c
  | .memfRII a addr len => Executed.memfRII a addr len
  | .memfIRR val b c => Executed.memfIRR val b c
  | .memfIRI val b len => Executed.memfIRI val b len
  | .memfIIR val addr c => Executed.memfIIR val addr c
  | .memfIII val addr len => Executed.memfIII val addr len
  | .findBI a n => Executed.findBI a n
  | .findBR a b => Executed.findBR a b
  | .findPA a addr => Executed.findPA a addr
  | .findPR a b => Executed.findPR a b
  | .ldregsMa a b addr => Executed.ldregsMa a b addr
  | .ldregsMr a b c => Executed.ldregsMr a b c
  | .stregsMa a b addr => Executed.stregsMa a b addr
  | .stregsMr a b c => Executed.stregsMr a b c
  | .ex8 a b => Executed.ex8 a b
  | .ex16 a b => Executed.ex16 a b
  | .ex24 a b => Executed.ex24 a b
  | .ex32 a b => Executed.ex32 a b
  | .bankselI n => Executed.bankselI n
  | .bankselR r => Executed.bankselR r
  | .rand8 a => Executed.rand8 a
  | .rand16 a => Executed.rand16 a
  | .rand24 a => Executed.rand24 a
  | .rand32 a => Executed.rand32 a
  | .randSeedI seed => Executed.randSeedI seed
  | .randSeedR a => Executed.randSeedR a
  | .waitI ms => Executed.waitI ms
  | .waitR r => Executed.waitR r
  | .setvarII index value => Executed.setvarII index value
  | .setvarRI a value => Executed.setvarRI a value
  | .setvarIR index b => Executed.setvarIR index b
  | .setvarRR a b => Executed.setvarRR a b
  | .getvarI a index => Executed.getvarI a index
  | .getvarR a b => Executed.getvarR a b
  | .smulRR8 a b => Executed.smulRR8 a b
  | .smulRR16 a b => Executed.smulRR16 a b
  | .smulRR24 a b => Executed.smulRR24 a b
  | .smulRR32 a b => Executed.smulRR32 a b
  | .smulRI8 a imm => Executed.smulRI8 a imm
  | .smulRI16 a imm => Executed.smulRI16 a imm
  | .smulRI24 a imm => Executed.smulRI24 a imm
  | .smulRI32 a imm => Executed.smulRI32 a imm
  | .play => Executed.play
  | .vclI n => Executed.vclI n
  | .vclR r => Executed.vclR r
  | .vdlI n => Executed.vdlI n
  | .vdlR r => Executed.vdlR r
  | .int r n arg => Executed.int r n arg
  | .brk => Executed.brk

end Sys2Proof.Laws
end

