-- ==== Sys2Proof/Tests/Slice0.lean ====
section
/-! SUPPORT. Tests: what well-formedness refuses, the decoding of every form, one step of the worked examples of
95_test_vectors.md, and for every statement with hypotheses a state and operands that meet them. -/

namespace Sys2Proof.Tests

open Sys2Proof.Machine

-- One theorem at a time: two hundred kernel evaluations waiting for each other would need as many threads.
set_option Elab.async false

/-! ## Well-formedness: each check refuses an ill-formed term -/

theorem test_play_ill_formed : Instr.wellFormed .play = false := by decide

theorem test_instr_well_formed : Instr.wellFormed (.andRR8 1 5) = true := by decide

theorem test_tea_well_formed : teaEncoding.wellFormed = true := by decide +kernel

/-- The TEA with one family's entry replaced. -/
def tables (k : Nat) (f : FamilyCode → FamilyCode) : Encoding :=
  { teaEncoding with families := teaEncoding.families.modify k f }

/-- A family without an entry. -/
theorem test_tables_incomplete : Encoding.complete { teaEncoding with families := teaEncoding.families.drop 1 } = false := by
  decide +kernel

/-- Two families of one primary byte (30_encoding.md R111). -/
theorem test_tables_opc_shared : (tables 1 fun f => { f with opc := 0x01 }).opcInjective = false := by decide +kernel

/-- A form without a `VAR` entry (R112). -/
theorem test_tables_form_missing : (tables 0 fun f => { f with codes := f.codes.drop 1 }).counts = false := by decide +kernel

/-- A variant out of its range (R112). -/
theorem test_tables_variant_range : (tables 18 fun f => { f with codes := [⟨5, 0⟩, ⟨5, 1⟩, ⟨5, 8⟩] }).ranges = false := by
  decide +kernel

/-- A variant shift that is not the format's (R115). -/
theorem test_tables_variant_shift : (tables 18 fun f => { f with codes := [⟨5, 0⟩, ⟨5, 1⟩, ⟨2, 2⟩] }).ranges = false := by
  decide +kernel

/-- Two forms of one sub-opcode (R129). -/
theorem test_tables_forms_clash : (tables 18 fun f => { f with codes := [⟨5, 0⟩, ⟨5, 1⟩, ⟨5, 1⟩] }).formsDistinct = false := by
  decide +kernel

/-- A sub-opcode that is a form and a miss (R129). -/
theorem test_tables_form_and_miss : (tables 18 fun f => { f with misses := [(95, 255)] }).subMissesApart = false := by
  decide +kernel

/-- A primary byte that is a family and a miss (R129). -/
theorem test_tables_family_and_miss : Encoding.primaryMissesApart { teaEncoding with primaryMisses := [(0x30, 0xFF)] } = false := by
  decide +kernel

/-- Each of these tables as a whole is refused too. -/
theorem test_tables_refused : (tables 1 fun f => { f with opc := 0x01 }).wellFormed = false := by decide +kernel

theorem test_launch_well_formed : Params.launch.wellFormed = true := by decide +kernel

/-- A start in a bank that does not exist (10_state.md R38). -/
theorem test_launch_bank_missing : Params.wellFormed { Params.launch with numBanks := 2, bankAtReset := 2 } = false := by
  decide +kernel

/-! ## States for the tests -/

/-- The reset state with bytes in memory at `IPO`. -/
def start (ip : Nat) (bs : List Byte) : State :=
  { State.reset with ipo := BitVec.ofNat 32 ip, mem := putBytes [] ip bs }

/-- The state R53's reset leaves (10_state.md): every register and flag UNDEF; with bytes in memory at `IPO`. -/
def unset (ip : Nat) (bs : List Byte) : State :=
  { State.machineReset { State.reset with params := { Params.launch with undefAtReset := true } } with
    ipo := BitVec.ofNat 32 ip, mem := putBytes [] ip bs }

def reg (s : State) (w : Width) (i : RegIx) (v : BitVec w.bits) : State := s.setView w i v

def flt (s : State) (j : FloatIx) (p : Word) : State := s.setFloat j p

def bytes (s : State) (a : Nat) (bs : List Byte) : State := { s with mem := putBytes s.mem a bs }

def flags (s : State) (v : Word) : State := { s with flag := v, flagUndef := 0 }

def depth (s : State) (n : Nat) : State := { s with spc := n }

def pushed (s : State) (v : Word) : State := { s with cs := s.cs.set s.spc v, spc := s.spc + 1 }

def variable_ (s : State) (k : Nat) (v : Word) : State := { s with hmem := Store.put s.hmem k v }

def params (s : State) (f : Params → Params) : State := { s with params := f s.params }

def lsbFirst (s : State) : State := params s fun p => { p with bitviewOrder := .lsbFirst }

def memmove (s : State) : State := params s fun p => { p with memcOverlap := .memmove }

def cell32 (s : State) : State := params s fun p => { p with regLayout := .cell32 }

def registers (s : State) (n : Fin 33) : State := params s fun p => { p with numIntRegs := n }

def banks (s : State) (n : Nat) : State := params s fun p => { p with numBanks := n }

def encoded (s : State) (e : Encoding) : State := params s fun p => { p with encoding := e }

/-- `start` with the register file in 32-bit cells. -/
def startCell32 (ip : Nat) (bs : List Byte) : State := cell32 (start ip bs)

/-- The view is defined and holds this. -/
def reads (s : State) (w : Width) (i : RegIx) (v : BitVec w.bits) : Bool := s.view w i == v && !s.viewUndef w i

def readsFloat (s : State) (j : FloatIx) (p : Word) : Bool := s.float j == p && !s.floatUndef j

def readsFlag (s : State) (n : FlagIx) (b : Bool) : Bool := s.flagBit n == b && !s.flagBitUndef n

/-- The bytes at an address are these. -/
def memory (s : State) (a : Nat) (bs : List Byte) : Bool :=
  (List.range bs.length).all fun k => s.byte? (a + k) == bs[k]?

/-- The outcome is a next state of which this holds. -/
def after (o : Out) (p : State → Bool) : Bool := match o with | .next t => p t | _ => false

def faults (o : Out) (f : Fault) : Bool := match o with | .fault g => f == g | _ => false

def refuses (o : Out) (r : Refusal) : Bool := match o with | .refused q => r == q | _ => false

/-! ## Decoding: every form's bytes

The bytes of each line follow the encoding, fields and TEA columns of opcode_table.json (30_encoding.md R110 to R128; 92_eei_decisions.md
D50), with distinct values in the fields, ignored bits (R118) set at random. -/

/-- Each list of bytes, whatever follows, decodes to its instruction, with its own length. -/
noncomputable def decodes (l : List (List Byte × Instr)) : Bool :=
  l.all fun p => decide (decode (p.1 ++ [0xA7]) = .instr p.2 p.1.length)

theorem test_decode_and : decodes [
    ([0x01, 0x03, 0x74], .andRR8 27 20),
    ([0x01, 0x04, 0x15], .andRR16 0 21),
    ([0x01, 0x0B, 0x72], .andRR24 27 18),
    ([0x01, 0x0E, 0xEB], .andRR32 23 11),
    ([0x01, 0x12, 0x51, 0xA1], .andRI8 18 0xA1),
    ([0x01, 0x17, 0x4D, 0x34, 0x3E], .andRI16 26 0x343E),
    ([0x01, 0x18, 0xBB, 0xB7, 0xA9, 0x93], .andRI24 5 0xB7A993),
    ([0x01, 0x1F, 0x17, 0xD7, 0xF2, 0x0D, 0x85], .andRI32 24 0xD7F20D85),
    ([0x01, 0x21, 0x96], .andRMr8 12 22),
    ([0x01, 0x24, 0x1B], .andRMr16 0 27),
    ([0x01, 0x28, 0xE1], .andRMr24 7 1),
    ([0x01, 0x2F, 0x1F], .andRMr32 24 31),
    ([0x01, 0x32, 0x34, 0x59, 0x63, 0x5F], .andRMa8 17 0x59635F),
    ([0x01, 0x34, 0x14, 0x83, 0x12, 0x54], .andRMa16 0 0x831254),
    ([0x01, 0x38, 0xA6, 0x23, 0x69, 0x8B], .andRMa24 5 0x23698B),
    ([0x01, 0x3D, 0x8D, 0xD1, 0x74, 0xF4], .andRMa32 12 0xD174F4),
    ([0x01, 0x43, 0x58], .andMrR8 26 24),
    ([0x01, 0x47, 0x77], .andMrR16 27 23),
    ([0x01, 0x49, 0xEA], .andMrR24 15 10),
    ([0x01, 0x4C, 0xE4], .andMrR32 7 4),
    ([0x01, 0x52, 0xEE, 0xA1, 0xD3, 0x1D], .andMaR8 0xA1D31D 23),
    ([0x01, 0x56, 0xE8, 0x47, 0x54, 0x85], .andMaR16 0x475485 23),
    ([0x01, 0x5A, 0x51, 0xA0, 0x79, 0x64], .andMaR24 0xA07964 18),
    ([0x01, 0x5F, 0xB5, 0x36, 0x4A, 0x5A], .andMaR32 0x364A5A 29),
    ([0x01, 0x61, 0x99, 0xAF], .andMrI8 12 0xAF),
    ([0x01, 0x64, 0x94, 0xFF, 0x01], .andMrI16 4 0xFF01),
    ([0x01, 0x69, 0x53, 0x41, 0x4A, 0x28], .andMrI24 10 0x414A28),
    ([0x01, 0x6D, 0xA4, 0xDC, 0xB3, 0x3F, 0x2E], .andMrI32 13 0xDCB33F2E),
    ([0x01, 0x73, 0x78, 0x63, 0x71, 0x18, 0xC8], .andMaI8 0x637118 0xC8),
    ([0x01, 0x77, 0xF9, 0x34, 0xE7, 0x4F, 0x7D, 0xA0], .andMaI16 0x34E74F 0x7DA0),
    ([0x01, 0x7A, 0xE5, 0x8B, 0xDA, 0x79, 0x25, 0xD2, 0xE6], .andMaI24 0x8BDA79 0x25D2E6),
    ([0x01, 0x7E, 0x80, 0xA4, 0x2D, 0x68, 0x5E, 0x84, 0x34, 0x2E], .andMaI32 0xA42D68 0x5E84342E)] = true := by decide +kernel

theorem test_decode_or : decodes [
    ([0x02, 0x01, 0xCA], .orRR8 14 10),
    ([0x02, 0x06, 0xD1], .orRR16 22 17),
    ([0x02, 0x09, 0x69], .orRR24 11 9),
    ([0x02, 0x0F, 0xC8], .orRR32 30 8),
    ([0x02, 0x10, 0x9A, 0x7E], .orRI8 4 0x7E),
    ([0x02, 0x17, 0xEB, 0xFC, 0xEA], .orRI16 31 0xFCEA),
    ([0x02, 0x1B, 0x4C, 0x70, 0x13, 0xF7], .orRI24 26 0x7013F7),
    ([0x02, 0x1D, 0xED, 0x67, 0xBB, 0xB0, 0x6A], .orRI32 15 0x67BBB06A),
    ([0x02, 0x21, 0xAA], .orRMr8 13 10),
    ([0x02, 0x26, 0x36], .orRMr16 17 22),
    ([0x02, 0x29, 0x34], .orRMr24 9 20),
    ([0x02, 0x2D, 0x3E], .orRMr32 9 30),
    ([0x02, 0x32, 0xC9, 0x3F, 0x75, 0x45], .orRMa8 22 0x3F7545),
    ([0x02, 0x35, 0x03, 0xDB, 0xD0, 0xB8], .orRMa16 8 0xDBD0B8),
    ([0x02, 0x3B, 0x80, 0xFF, 0xDA, 0x04], .orRMa24 28 0xFFDA04),
    ([0x02, 0x3F, 0xD6, 0x98, 0xCB, 0x03], .orRMa32 30 0x98CB03),
    ([0x02, 0x40, 0x95], .orMrR8 4 21),
    ([0x02, 0x45, 0x65], .orMrR16 11 5),
    ([0x02, 0x49, 0xBF], .orMrR24 13 31),
    ([0x02, 0x4E, 0x1B], .orMrR32 16 27),
    ([0x02, 0x51, 0xBE, 0xA8, 0x0F, 0xBB], .orMaR8 0xA80FBB 13),
    ([0x02, 0x55, 0x6B, 0x74, 0x09, 0x9C], .orMaR16 0x74099C 11),
    ([0x02, 0x5B, 0x87, 0x37, 0x8E, 0x62], .orMaR24 0x378E62 28),
    ([0x02, 0x5D, 0xCB, 0xF9, 0xCC, 0x7F], .orMaR32 0xF9CC7F 14),
    ([0x02, 0x62, 0x39, 0x46], .orMrI8 17 0x46),
    ([0x02, 0x64, 0x5F, 0x8D, 0x2F], .orMrI16 2 0x8D2F),
    ([0x02, 0x68, 0x36, 0xBA, 0x90, 0x54], .orMrI24 1 0xBA9054),
    ([0x02, 0x6C, 0x7A, 0x54, 0x7C, 0x15, 0xE7], .orMrI32 3 0x547C15E7),
    ([0x02, 0x70, 0x04, 0xB6, 0xDA, 0xF3, 0xDA], .orMaI8 0xB6DAF3 0xDA),
    ([0x02, 0x76, 0x26, 0x38, 0x5D, 0xAE, 0x6C, 0xD3], .orMaI16 0x385DAE 0x6CD3),
    ([0x02, 0x7B, 0x4B, 0x9C, 0xA4, 0x4A, 0x01, 0xB5, 0xD5], .orMaI24 0x9CA44A 0x1B5D5),
    ([0x02, 0x7F, 0xBC, 0xE5, 0xE9, 0x72, 0x01, 0x8B, 0xA7, 0x9A], .orMaI32 0xE5E972 0x18BA79A)] = true := by decide +kernel

theorem test_decode_xor : decodes [
    ([0x03, 0x00, 0xA4], .xorRR8 5 4),
    ([0x03, 0x05, 0xC9], .xorRR16 14 9),
    ([0x03, 0x08, 0xE8], .xorRR24 7 8),
    ([0x03, 0x0F, 0x8B], .xorRR32 28 11),
    ([0x03, 0x11, 0x0A, 0x21], .xorRI8 8 0x21),
    ([0x03, 0x15, 0xFF, 0xB1, 0xBF], .xorRI16 15 0xB1BF),
    ([0x03, 0x1B, 0xD4, 0xE7, 0x11, 0x49], .xorRI24 30 0xE71149),
    ([0x03, 0x1C, 0xFF, 0xC5, 0xF5, 0x76, 0xC6], .xorRI32 7 0xC5F576C6),
    ([0x03, 0x23, 0x13], .xorRMr8 24 19),
    ([0x03, 0x25, 0xB2], .xorRMr16 13 18),
    ([0x03, 0x29, 0xC6], .xorRMr24 14 6),
    ([0x03, 0x2F, 0xDE], .xorRMr32 30 30),
    ([0x03, 0x31, 0x33, 0x63, 0x6F, 0x37], .xorRMa8 9 0x636F37),
    ([0x03, 0x36, 0x5F, 0x10, 0x48, 0x30], .xorRMa16 18 0x104830),
    ([0x03, 0x39, 0xE5, 0x61, 0xEA, 0x0C], .xorRMa24 15 0x61EA0C),
    ([0x03, 0x3E, 0x05, 0xA2, 0x6E, 0x92], .xorRMa32 16 0xA26E92),
    ([0x03, 0x42, 0x25], .xorMrR8 17 5),
    ([0x03, 0x47, 0xA7], .xorMrR16 29 7),
    ([0x03, 0x48, 0x37], .xorMrR24 1 23),
    ([0x03, 0x4E, 0x16], .xorMrR32 16 22),
    ([0x03, 0x52, 0x40, 0xC8, 0xD4, 0xD1], .xorMaR8 0xC8D4D1 18),
    ([0x03, 0x57, 0x26, 0xA1, 0x39, 0x8E], .xorMaR16 0xA1398E 25),
    ([0x03, 0x58, 0x4B, 0xAD, 0xC3, 0x2B], .xorMaR24 0xADC32B 2),
    ([0x03, 0x5D, 0xE5, 0x21, 0x3A, 0xBB], .xorMaR32 0x213ABB 15),
    ([0x03, 0x62, 0x72, 0x1F], .xorMrI8 19 0x1F),
    ([0x03, 0x65, 0x9E, 0xC1, 0x6D], .xorMrI16 12 0xC16D),
    ([0x03, 0x6A, 0x45, 0xCC, 0xA5, 0x23], .xorMrI24 18 0xCCA523),
    ([0x03, 0x6F, 0xAE, 0xFD, 0x67, 0xC1, 0xFF], .xorMrI32 29 0xFD67C1FF),
    ([0x03, 0x73, 0xAD, 0x13, 0x9F, 0x15, 0x0C], .xorMaI8 0x139F15 0x0C),
    ([0x03, 0x75, 0xCD, 0xC3, 0xF1, 0xE2, 0x2C, 0xF4], .xorMaI16 0xC3F1E2 0x2CF4),
    ([0x03, 0x7A, 0xAB, 0xCD, 0x54, 0x8E, 0x8D, 0xB1, 0x6D], .xorMaI24 0xCD548E 0x8DB16D),
    ([0x03, 0x7F, 0x2C, 0x19, 0xEE, 0x1E, 0x59, 0x58, 0xA5, 0xE0], .xorMaI32 0x19EE1E 0x5958A5E0)] = true := by decide +kernel

theorem test_decode_nor : decodes [
    ([0x04, 0x02, 0xA2], .norRR8 21 2),
    ([0x04, 0x04, 0xEC], .norRR16 7 12),
    ([0x04, 0x09, 0xE4], .norRR24 15 4),
    ([0x04, 0x0C, 0x57], .norRR32 2 23),
    ([0x04, 0x11, 0xDF, 0x65], .norRI8 14 0x65),
    ([0x04, 0x16, 0x6D, 0xD8, 0x98], .norRI16 19 0xD898),
    ([0x04, 0x18, 0xEE, 0x83, 0x54, 0xBF], .norRI24 7 0x8354BF),
    ([0x04, 0x1C, 0x1B, 0x50, 0x1B, 0xB5, 0xF3], .norRI32 0 0x501BB5F3),
    ([0x04, 0x23, 0xC0], .norRMr8 30 0),
    ([0x04, 0x24, 0xB4], .norRMr16 5 20),
    ([0x04, 0x2A, 0xD8], .norRMr24 22 24),
    ([0x04, 0x2D, 0x16], .norRMr32 8 22),
    ([0x04, 0x30, 0x3C, 0xA1, 0x70, 0xBB], .norRMa8 1 0xA170BB),
    ([0x04, 0x36, 0x8F, 0x38, 0x9B, 0x2C], .norRMa16 20 0x389B2C),
    ([0x04, 0x39, 0x55, 0x6A, 0xD6, 0x6D], .norRMa24 10 0x6AD66D),
    ([0x04, 0x3F, 0x0F, 0xF8, 0xBE, 0xAA], .norRMa32 24 0xF8BEAA),
    ([0x04, 0x40, 0xD8], .norMrR8 6 24),
    ([0x04, 0x45, 0x6A], .norMrR16 11 10),
    ([0x04, 0x4A, 0xF2], .norMrR24 23 18),
    ([0x04, 0x4F, 0xA3], .norMrR32 29 3),
    ([0x04, 0x52, 0x21, 0x1F, 0x80, 0x00], .norMaR8 0x1F8000 17),
    ([0x04, 0x54, 0xB1, 0x5D, 0x96, 0x9F], .norMaR16 0x5D969F 5),
    ([0x04, 0x59, 0x9A, 0x2E, 0x6A, 0xF4], .norMaR24 0x2E6AF4 12),
    ([0x04, 0x5D, 0x20, 0x9B, 0x24, 0x02], .norMaR32 0x9B2402 9),
    ([0x04, 0x61, 0x7B, 0x5C], .norMrI8 11 0x5C),
    ([0x04, 0x64, 0xDF, 0x82, 0xEF], .norMrI16 6 0x82EF),
    ([0x04, 0x6A, 0x58, 0x30, 0x79, 0x6C], .norMrI24 18 0x30796C),
    ([0x04, 0x6D, 0x21, 0x80, 0xF2, 0x08, 0x81], .norMrI32 9 0x80F20881),
    ([0x04, 0x73, 0xE9, 0xE9, 0x2B, 0x5F, 0xA7], .norMaI8 0xE92B5F 0xA7),
    ([0x04, 0x74, 0x98, 0x07, 0x95, 0x53, 0x62, 0xBD], .norMaI16 0x79553 0x62BD),
    ([0x04, 0x7A, 0xBB, 0x31, 0xAE, 0x7E, 0xAB, 0x5D, 0x54], .norMaI24 0x31AE7E 0xAB5D54),
    ([0x04, 0x7E, 0xF0, 0x06, 0xE9, 0x33, 0x0D, 0x8B, 0xD0, 0x97], .norMaI32 0x6E933 0xD8BD097)] = true := by decide +kernel

theorem test_decode_min : decodes [
    ([0x05, 0x03, 0xC7], .minRR8 30 7),
    ([0x05, 0x07, 0xB8], .minRR16 29 24),
    ([0x05, 0x0B, 0x28], .minRR24 25 8),
    ([0x05, 0x0E, 0xA4], .minRR32 21 4),
    ([0x05, 0x10, 0x23, 0xF3], .minRI8 1 0xF3),
    ([0x05, 0x17, 0x6F, 0x08, 0x8C], .minRI16 27 0x88C),
    ([0x05, 0x19, 0x66, 0x80, 0x8C, 0x2B], .minRI24 11 0x808C2B),
    ([0x05, 0x1F, 0x54, 0xAB, 0xF2, 0xBF, 0x77], .minRI32 26 0xABF2BF77),
    ([0x05, 0x20, 0x93], .minRMr8 4 19),
    ([0x05, 0x27, 0x6C], .minRMr16 27 12),
    ([0x05, 0x2B, 0x3A], .minRMr24 25 26),
    ([0x05, 0x2D, 0x21], .minRMr32 9 1),
    ([0x05, 0x33, 0xF2, 0xA0, 0x22, 0xC7], .minRMa8 31 0xA022C7),
    ([0x05, 0x35, 0xFE, 0x97, 0x9E, 0xE8], .minRMa16 15 0x979EE8),
    ([0x05, 0x38, 0x28, 0x20, 0xA4, 0xA7], .minRMa24 1 0x20A4A7),
    ([0x05, 0x3D, 0x75, 0xD5, 0x95, 0x86], .minRMa32 11 0xD59586),
    ([0x05, 0x42, 0xB1], .minMrR8 21 17),
    ([0x05, 0x45, 0x92], .minMrR16 12 18),
    ([0x05, 0x4A, 0x17], .minMrR24 16 23),
    ([0x05, 0x4D, 0xB4], .minMrR32 13 20),
    ([0x05, 0x53, 0x7A, 0x6B, 0x3F, 0xD4], .minMaR8 0x6B3FD4 27),
    ([0x05, 0x54, 0xC6, 0x54, 0x86, 0x07], .minMaR16 0x548607 6),
    ([0x05, 0x58, 0x27, 0x68, 0x0B, 0x1F], .minMaR24 0x680B1F 1),
    ([0x05, 0x5F, 0xE4, 0xA9, 0xE4, 0x35], .minMaR32 0xA9E435 31),
    ([0x05, 0x60, 0xB4, 0xBB], .minMrI8 5 0xBB),
    ([0x05, 0x64, 0x67, 0xB7, 0x81], .minMrI16 3 0xB781),
    ([0x05, 0x6B, 0x96, 0xD0, 0xDD, 0x5D], .minMrI24 28 0xD0DD5D),
    ([0x05, 0x6F, 0xE0, 0x0F, 0xF2, 0xAF, 0x93], .minMrI32 31 0xFF2AF93),
    ([0x05, 0x70, 0xF2, 0xC7, 0xE8, 0x6E, 0xC2], .minMaI8 0xC7E86E 0xC2),
    ([0x05, 0x76, 0x3C, 0xF8, 0x8E, 0x18, 0x44, 0x6F], .minMaI16 0xF88E18 0x446F),
    ([0x05, 0x7A, 0x84, 0x22, 0x73, 0xB8, 0x2C, 0xEB, 0xAF], .minMaI24 0x2273B8 0x2CEBAF),
    ([0x05, 0x7F, 0x32, 0xCB, 0xEB, 0x95, 0xA0, 0xAB, 0xD5, 0x94], .minMaI32 0xCBEB95 0xA0ABD594),
    ([0x05, 0x80, 0x6E], .minRF8 3 14),
    ([0x05, 0x87, 0xAC], .minRF16 29 12),
    ([0x05, 0x8A, 0x92], .minRF24 20 2),
    ([0x05, 0x8E, 0x0C], .minRF32 16 12),
    ([0x05, 0x93, 0xA2], .minFF 10 2)] = true := by decide +kernel

theorem test_decode_max : decodes [
    ([0x06, 0x02, 0x62], .maxRR8 19 2),
    ([0x06, 0x05, 0x03], .maxRR16 8 3),
    ([0x06, 0x08, 0x56], .maxRR24 2 22),
    ([0x06, 0x0F, 0xC0], .maxRR32 30 0),
    ([0x06, 0x12, 0x3B, 0x8E], .maxRI8 17 0x8E),
    ([0x06, 0x14, 0x0E, 0x1B, 0xB8], .maxRI16 0 0x1BB8),
    ([0x06, 0x18, 0x34, 0x19, 0xD5, 0x3B], .maxRI24 1 0x19D53B),
    ([0x06, 0x1E, 0xA8, 0xFD, 0x33, 0x4E, 0xE5], .maxRI32 21 0xFD334EE5),
    ([0x06, 0x20, 0xCF], .maxRMr8 6 15),
    ([0x06, 0x26, 0x31], .maxRMr16 17 17),
    ([0x06, 0x2A, 0x76], .maxRMr24 19 22),
    ([0x06, 0x2E, 0x13], .maxRMr32 16 19),
    ([0x06, 0x31, 0x3D, 0x18, 0xC6, 0x0B], .maxRMa8 9 0x18C60B),
    ([0x06, 0x34, 0xC2, 0x57, 0x2E, 0xEA], .maxRMa16 6 0x572EEA),
    ([0x06, 0x3A, 0x94, 0x0A, 0x81, 0x5D], .maxRMa24 20 0xA815D),
    ([0x06, 0x3E, 0x14, 0x20, 0x04, 0xF2], .maxRMa32 16 0x2004F2),
    ([0x06, 0x41, 0xD9], .maxMrR8 14 25),
    ([0x06, 0x46, 0x85], .maxMrR16 20 5),
    ([0x06, 0x4A, 0x96], .maxMrR24 20 22),
    ([0x06, 0x4C, 0xE4], .maxMrR32 7 4),
    ([0x06, 0x50, 0x25, 0x3B, 0xB0, 0xA8], .maxMaR8 0x3BB0A8 1),
    ([0x06, 0x54, 0x02, 0x94, 0x37, 0x8B], .maxMaR16 0x94378B 0),
    ([0x06, 0x5A, 0xF9, 0xBD, 0xD9, 0x8A], .maxMaR24 0xBDD98A 23),
    ([0x06, 0x5C, 0xDC, 0x4E, 0x8C, 0xB9], .maxMaR32 0x4E8CB9 6),
    ([0x06, 0x60, 0xE2, 0xA4], .maxMrI8 7 0xA4),
    ([0x06, 0x65, 0x58, 0xA6, 0x2B], .maxMrI16 10 0xA62B),
    ([0x06, 0x6A, 0x73, 0x38, 0xE5, 0x56], .maxMrI24 19 0x38E556),
    ([0x06, 0x6E, 0x62, 0xBE, 0xB5, 0x1F, 0xAC], .maxMrI32 19 0xBEB51FAC),
    ([0x06, 0x70, 0x3E, 0xE7, 0xED, 0x51, 0x71], .maxMaI8 0xE7ED51 0x71),
    ([0x06, 0x75, 0xD9, 0x25, 0xDA, 0xEC, 0xB6, 0xF6], .maxMaI16 0x25DAEC 0xB6F6),
    ([0x06, 0x7B, 0xFB, 0xAB, 0xD0, 0x79, 0x4A, 0x5D, 0x61], .maxMaI24 0xABD079 0x4A5D61),
    ([0x06, 0x7F, 0x7F, 0xCB, 0xC7, 0xD7, 0xA2, 0xD1, 0x78, 0xE9], .maxMaI32 0xCBC7D7 0xA2D178E9),
    ([0x06, 0x82, 0x85], .maxRF8 20 5),
    ([0x06, 0x85, 0x6D], .maxRF16 11 13),
    ([0x06, 0x89, 0x11], .maxRF24 8 1),
    ([0x06, 0x8E, 0x62], .maxRF32 19 2),
    ([0x06, 0x91, 0x46], .maxFF 4 6)] = true := by decide +kernel

theorem test_decode_inc : decodes [
    ([0x07, 0x00, 0xB1], .incR8 5),
    ([0x07, 0x07, 0x16], .incR16 24),
    ([0x07, 0x08, 0xE8], .incR24 7),
    ([0x07, 0x0D, 0x7B], .incR32 11),
    ([0x07, 0x11, 0x7E], .incMr8 11),
    ([0x07, 0x14, 0x53], .incMr16 2),
    ([0x07, 0x1A, 0xA4], .incMr24 21),
    ([0x07, 0x1E, 0xE4], .incMr32 23),
    ([0x07, 0x20, 0x8C, 0xE8, 0x8F, 0xB8], .incMa8 0xE88FB8),
    ([0x07, 0x27, 0xA3, 0xE4, 0xA0, 0xD8], .incMa16 0xE4A0D8),
    ([0x07, 0x2B, 0x92, 0x25, 0x92, 0xF8], .incMa24 0x2592F8),
    ([0x07, 0x2E, 0xAD, 0xFD, 0x7E, 0x14], .incMa32 0xFD7E14)] = true := by decide +kernel

theorem test_decode_dec : decodes [
    ([0x08, 0x00, 0x65], .decR8 3),
    ([0x08, 0x06, 0x80], .decR16 20),
    ([0x08, 0x0A, 0x3C], .decR24 17),
    ([0x08, 0x0D, 0xF3], .decR32 15),
    ([0x08, 0x10, 0x83], .decMr8 4),
    ([0x08, 0x16, 0xAE], .decMr16 21),
    ([0x08, 0x1B, 0x22], .decMr24 25),
    ([0x08, 0x1E, 0x6B], .decMr32 19),
    ([0x08, 0x21, 0x6E, 0x1D, 0xD3, 0xEE], .decMa8 0x1DD3EE),
    ([0x08, 0x26, 0xDF, 0x88, 0x1C, 0xD7], .decMa16 0x881CD7),
    ([0x08, 0x28, 0x3A, 0x7C, 0x72, 0x79], .decMa24 0x7C7279),
    ([0x08, 0x2D, 0x30, 0x8D, 0xEF, 0x8B], .decMa32 0x8DEF8B)] = true := by decide +kernel

theorem test_decode_inv : decodes [
    ([0x09, 0x03, 0x54], .invR8 26),
    ([0x09, 0x05, 0xC3], .invR16 14),
    ([0x09, 0x09, 0x41], .invR24 10),
    ([0x09, 0x0F, 0x20], .invR32 25)] = true := by decide +kernel

theorem test_decode_sl : decodes [
    ([0x0A, 0x00, 0x71, 0xD8], .slI8 3 0xD8),
    ([0x0A, 0x07, 0x5B, 0x25], .slI16 26 0x25),
    ([0x0A, 0x08, 0x82, 0x88], .slI24 4 0x88),
    ([0x0A, 0x0F, 0xE9, 0xEA], .slI32 31 0xEA),
    ([0x0A, 0x11, 0xB1], .slR8 13 17),
    ([0x0A, 0x14, 0x27], .slR16 1 7),
    ([0x0A, 0x1A, 0xFB], .slR24 23 27),
    ([0x0A, 0x1D, 0x69], .slR32 11 9)] = true := by decide +kernel

theorem test_decode_sr : decodes [
    ([0x0B, 0x02, 0x8C, 0xC5], .srI8 20 0xC5),
    ([0x0B, 0x06, 0x3D, 0x1A], .srI16 17 0x1A),
    ([0x0B, 0x0B, 0x92, 0x86], .srI24 28 0x86),
    ([0x0B, 0x0D, 0xD0, 0x3D], .srI32 14 0x3D),
    ([0x0B, 0x13, 0xE6], .srR8 31 6),
    ([0x0B, 0x16, 0xD0], .srR16 22 16),
    ([0x0B, 0x1A, 0x4B], .srR24 18 11),
    ([0x0B, 0x1F, 0xF5], .srR32 31 21)] = true := by decide +kernel

theorem test_decode_rl : decodes [
    ([0x0C, 0x00, 0xB6, 0x5C], .rlI8 5 0x5C),
    ([0x0C, 0x07, 0x69, 0x4E], .rlI16 27 0x4E),
    ([0x0C, 0x0B, 0x75, 0x1C], .rlI24 27 0x1C),
    ([0x0C, 0x0D, 0x56, 0x75], .rlI32 10 0x75),
    ([0x0C, 0x12, 0x1D], .rlR8 16 29),
    ([0x0C, 0x15, 0xE2], .rlR16 15 2),
    ([0x0C, 0x19, 0xEF], .rlR24 15 15),
    ([0x0C, 0x1F, 0x45], .rlR32 26 5)] = true := by decide +kernel

theorem test_decode_rr : decodes [
    ([0x0D, 0x02, 0xDA, 0x05], .rrI8 22 0x05),
    ([0x0D, 0x06, 0xF6, 0x16], .rrI16 23 0x16),
    ([0x0D, 0x0A, 0x2F, 0xBB], .rrI24 17 0xBB),
    ([0x0D, 0x0C, 0x20, 0xDD], .rrI32 1 0xDD),
    ([0x0D, 0x13, 0x0C], .rrR8 24 12),
    ([0x0D, 0x14, 0x02], .rrR16 0 2),
    ([0x0D, 0x19, 0x57], .rrR24 10 23),
    ([0x0D, 0x1C, 0x1D], .rrR32 0 29)] = true := by decide +kernel

theorem test_decode_set : decodes [
    ([0x0E, 0x03, 0x18, 0x77], .setI8 24 0x77),
    ([0x0E, 0x05, 0x0A, 0x40], .setI16 8 0x40),
    ([0x0E, 0x08, 0xC1, 0x8A], .setI24 6 0x8A),
    ([0x0E, 0x0C, 0x6F, 0x0E], .setI32 3 0x0E),
    ([0x0E, 0x13, 0x4C], .setR8 26 12),
    ([0x0E, 0x17, 0xD4], .setR16 30 20),
    ([0x0E, 0x18, 0x8D], .setR24 4 13),
    ([0x0E, 0x1D, 0x73], .setR32 11 19)] = true := by decide +kernel

theorem test_decode_res : decodes [
    ([0x0F, 0x03, 0x12, 0x88], .resI8 24 0x88),
    ([0x0F, 0x04, 0x32, 0x44], .resI16 1 0x44),
    ([0x0F, 0x08, 0x7B, 0x2E], .resI24 3 0x2E),
    ([0x0F, 0x0E, 0xA3, 0x84], .resI32 21 0x84),
    ([0x0F, 0x11, 0x5A], .resR8 10 26),
    ([0x0F, 0x14, 0x26], .resR16 1 6),
    ([0x0F, 0x18, 0x75], .resR24 3 21),
    ([0x0F, 0x1D, 0x60], .resR32 11 0)] = true := by decide +kernel

theorem test_decode_bit : decodes [
    ([0x10, 0x02, 0x5D, 0xA6], .bitI8 18 0xA6),
    ([0x10, 0x05, 0xE8, 0xF8], .bitI16 15 0xF8),
    ([0x10, 0x0B, 0x68, 0xCD], .bitI24 27 0xCD),
    ([0x10, 0x0C, 0x13, 0x55], .bitI32 0 0x55),
    ([0x10, 0x12, 0xF4], .bitR8 23 20),
    ([0x10, 0x14, 0x2D], .bitR16 1 13),
    ([0x10, 0x19, 0x56], .bitR24 10 22),
    ([0x10, 0x1F, 0x23], .bitR32 25 3)] = true := by decide +kernel

theorem test_decode_getbits : decodes [
    ([0x11, 0x03, 0x2A, 0xA0], .getbitsI8 25 10 0xA0),
    ([0x11, 0x05, 0x03, 0x68], .getbitsI16 8 3 0x68),
    ([0x11, 0x0A, 0x33, 0x72], .getbitsI24 17 19 0x72),
    ([0x11, 0x0F, 0x1D, 0x6D], .getbitsI32 24 29 0x6D),
    ([0x11, 0x10, 0x25, 0x97], .getbitsR8 1 5 23),
    ([0x11, 0x15, 0x6A, 0x53], .getbitsR16 11 10 19),
    ([0x11, 0x19, 0x7F, 0xAB], .getbitsR24 11 31 11),
    ([0x11, 0x1C, 0xC1, 0x64], .getbitsR32 6 1 4)] = true := by decide +kernel

theorem test_decode_setbits : decodes [
    ([0x12, 0x02, 0xC3, 0x30], .setbitsI8 22 3 0x30),
    ([0x12, 0x04, 0xEE, 0x31], .setbitsI16 7 14 0x31),
    ([0x12, 0x0A, 0x1D, 0x35], .setbitsI24 16 29 0x35),
    ([0x12, 0x0D, 0x3A, 0xBE], .setbitsI32 9 26 0xBE),
    ([0x12, 0x10, 0x04, 0x75], .setbitsR8 0 4 21),
    ([0x12, 0x17, 0x46, 0xB8], .setbitsR16 26 6 24),
    ([0x12, 0x19, 0x4C, 0x33], .setbitsR24 10 12 19),
    ([0x12, 0x1E, 0x7C, 0xA2], .setbitsR32 19 28 2)] = true := by decide +kernel

theorem test_decode_jp : decodes [
    ([0x13, 0x13, 0x0A, 0xCD, 0x49], .jpImm 0xACD49),
    ([0x13, 0x2D], .jpReg 13),
    ([0x13, 0x50, 0x68, 0xAE, 0xFA], .jpCond 16 0x68AEFA)] = true := by decide +kernel

theorem test_decode_jr : decodes [
    ([0x14, 0x15, 0x82, 0x51, 0x34], .jrRel 0x825134)] = true := by decide +kernel

theorem test_decode_call : decodes [
    ([0x15, 0x08, 0x9D, 0x1F, 0x0C], .callImm 0x9D1F0C),
    ([0x15, 0x24], .callReg 4),
    ([0x15, 0x40, 0xDF, 0x98, 0xAB], .callCond 0 0xDF98AB)] = true := by decide +kernel

theorem test_decode_callr : decodes [
    ([0x16, 0x0A, 0xB8, 0xAE, 0xA1], .callrRel 0xB8AEA1)] = true := by decide +kernel

theorem test_decode_ret : decodes [
    ([0x17, 0x03], .ret)] = true := by decide +kernel

theorem test_decode_retif : decodes [
    ([0x18, 0x15], .retif 21)] = true := by decide +kernel

theorem test_decode_scp : decodes [
    ([0x19, 0x02, 0x7B], .scpRR8 19 27),
    ([0x19, 0x05, 0x83], .scpRR16 12 3),
    ([0x19, 0x09, 0x8D], .scpRR24 12 13),
    ([0x19, 0x0C, 0x55], .scpRR32 2 21),
    ([0x19, 0x12, 0x12, 0x7A], .scpRI8 16 0x7A),
    ([0x19, 0x17, 0x4F, 0x9A, 0x84], .scpRI16 26 0x9A84),
    ([0x19, 0x18, 0x96, 0xFE, 0x58, 0xAC], .scpRI24 4 0xFE58AC),
    ([0x19, 0x1D, 0x8C, 0x61, 0x58, 0x1C, 0x93], .scpRI32 12 0x61581C93),
    ([0x19, 0x22, 0x64], .scpRMr8 19 4),
    ([0x19, 0x25, 0x65], .scpRMr16 11 5),
    ([0x19, 0x29, 0x58], .scpRMr24 10 24),
    ([0x19, 0x2D, 0x12], .scpRMr32 8 18),
    ([0x19, 0x32, 0x49, 0xA0, 0xB6, 0xBC], .scpRMa8 18 0xA0B6BC),
    ([0x19, 0x37, 0xD1, 0xDB, 0x83, 0xA3], .scpRMa16 30 0xDB83A3),
    ([0x19, 0x38, 0x66, 0x5E, 0xF5, 0xA8], .scpRMa24 3 0x5EF5A8),
    ([0x19, 0x3C, 0x3E, 0x65, 0x44, 0xB8], .scpRMa32 1 0x6544B8),
    ([0x19, 0x42, 0xA7], .scpMrR8 21 7),
    ([0x19, 0x47, 0x80], .scpMrR16 28 0),
    ([0x19, 0x49, 0x9E], .scpMrR24 12 30),
    ([0x19, 0x4E, 0x83], .scpMrR32 20 3),
    ([0x19, 0x51, 0x02, 0xC3, 0x66, 0x4A], .scpMaR8 0xC3664A 8),
    ([0x19, 0x55, 0x7A, 0xFD, 0x52, 0x0A], .scpMaR16 0xFD520A 11),
    ([0x19, 0x5B, 0xEF, 0x65, 0x95, 0xC6], .scpMaR24 0x6595C6 31),
    ([0x19, 0x5F, 0x98, 0x15, 0x69, 0x6A], .scpMaR32 0x15696A 28),
    ([0x19, 0x62, 0x05, 0xA9], .scpMrI8 16 0xA9),
    ([0x19, 0x65, 0x1F, 0x37, 0xEE], .scpMrI16 8 0x37EE),
    ([0x19, 0x69, 0xEF, 0x68, 0x16, 0x9E], .scpMrI24 15 0x68169E),
    ([0x19, 0x6F, 0x49, 0xFC, 0x6D, 0x8D, 0x84], .scpMrI32 26 0xFC6D8D84),
    ([0x19, 0x73, 0x89, 0xC2, 0x95, 0x2F, 0xD0], .scpMaI8 0xC2952F 0xD0),
    ([0x19, 0x75, 0x6F, 0xB5, 0x70, 0x9B, 0xD0, 0xAB], .scpMaI16 0xB5709B 0xD0AB),
    ([0x19, 0x7B, 0xB9, 0xB4, 0x19, 0xF5, 0x55, 0x0C, 0xC3], .scpMaI24 0xB419F5 0x550CC3),
    ([0x19, 0x7E, 0x92, 0x86, 0x38, 0x52, 0x57, 0x57, 0xF5, 0xAF], .scpMaI32 0x863852 0x5757F5AF)] = true := by decide +kernel

theorem test_decode_sqr : decodes [
    ([0x1A, 0x02, 0x07], .sqrFF 0 7),
    ([0x1A, 0x04, 0x7C], .sqrFR8 12 3),
    ([0x1A, 0x0B, 0x57], .sqrFR16 7 26),
    ([0x1A, 0x0D, 0xEC], .sqrFR24 12 15),
    ([0x1A, 0x12, 0xFB], .sqrFR32 11 23),
    ([0x1A, 0x15, 0x3C], .sqrRF8 9 12),
    ([0x1A, 0x1A, 0xA5], .sqrRF16 21 5),
    ([0x1A, 0x1C, 0x74], .sqrRF24 3 4),
    ([0x1A, 0x20, 0x6C], .sqrRF32 3 12),
    ([0x1A, 0x26, 0xFA], .sqrFMr 10 23),
    ([0x1A, 0x2B, 0x68], .sqrMrF 27 8),
    ([0x1A, 0x2C, 0x81, 0xCF, 0x41, 0x89], .sqrFMa 8 0xCF4189),
    ([0x1A, 0x32, 0x44, 0xEA, 0x72, 0x75], .sqrMaF 0xEA7275 4)] = true := by decide +kernel

theorem test_decode_cbr : decodes [
    ([0x1B, 0x02, 0x44], .cbrFF 4 4),
    ([0x1B, 0x06, 0xDF], .cbrFR8 15 22),
    ([0x1B, 0x09, 0x64], .cbrFR16 4 11),
    ([0x1B, 0x0F, 0xC4], .cbrFR24 4 30),
    ([0x1B, 0x10, 0xE1], .cbrFR32 1 7),
    ([0x1B, 0x17, 0x92], .cbrRF8 28 2),
    ([0x1B, 0x18, 0x2E], .cbrRF16 1 14),
    ([0x1B, 0x1C, 0xD7], .cbrRF24 6 7),
    ([0x1B, 0x22, 0xDE], .cbrRF32 22 14),
    ([0x1B, 0x26, 0x06], .cbrFMr 6 16),
    ([0x1B, 0x2A, 0x71], .cbrMrF 19 1),
    ([0x1B, 0x2F, 0x50, 0xCA, 0xC0, 0x8F], .cbrFMa 5 0xCAC08F),
    ([0x1B, 0x30, 0x53, 0xA9, 0x62, 0x93], .cbrMaF 0xA96293 5)] = true := by decide +kernel

theorem test_decode_pow : decodes [
    ([0x1C, 0x00, 0x90], .powFF 9 0),
    ([0x1C, 0x04, 0xA5], .powFR8 5 5),
    ([0x1C, 0x0B, 0x47], .powFR16 7 26),
    ([0x1C, 0x0C, 0x42], .powFR24 2 2),
    ([0x1C, 0x12, 0x5D], .powFR32 13 18),
    ([0x1C, 0x15, 0xBA], .powRF8 13 10),
    ([0x1C, 0x19, 0x17], .powRF16 8 7),
    ([0x1C, 0x1F, 0xB9], .powRF24 29 9),
    ([0x1C, 0x21, 0xF4], .powRF32 15 4),
    ([0x1C, 0x25, 0xF5], .powFMr 5 15),
    ([0x1C, 0x2B, 0x6B], .powMrF 27 11),
    ([0x1C, 0x2F, 0x43, 0x2C, 0x6F, 0xFA], .powFMa 4 0x2C6FFA),
    ([0x1C, 0x30, 0xC8, 0x1F, 0xE4, 0x2C], .powMaF 0x1FE42C 12)] = true := by decide +kernel

theorem test_decode_sin : decodes [
    ([0x1D, 0x02, 0xA0], .sinFF 10 0),
    ([0x1D, 0x04, 0xBF], .sinFR8 15 5),
    ([0x1D, 0x0B, 0x93], .sinFR16 3 28),
    ([0x1D, 0x0E, 0x4B], .sinFR24 11 18),
    ([0x1D, 0x12, 0x81], .sinFR32 1 20),
    ([0x1D, 0x17, 0x1D], .sinRF8 24 13),
    ([0x1D, 0x1A, 0xDB], .sinRF16 22 11),
    ([0x1D, 0x1F, 0x03], .sinRF24 24 3),
    ([0x1D, 0x20, 0x7D], .sinRF32 3 13),
    ([0x1D, 0x26, 0x02], .sinFMr 2 16),
    ([0x1D, 0x28, 0x29], .sinMrF 1 9),
    ([0x1D, 0x2E, 0xEA, 0x5F, 0x4A, 0x2E], .sinFMa 14 0x5F4A2E),
    ([0x1D, 0x30, 0xDE, 0x57, 0x24, 0xF4], .sinMaF 0x5724F4 13)] = true := by decide +kernel

theorem test_decode_floor : decodes [
    ([0x1E, 0x03, 0xDC], .floorFF 13 12),
    ([0x1E, 0x06, 0x81], .floorFR8 1 20),
    ([0x1E, 0x0A, 0xE4], .floorFR16 4 23),
    ([0x1E, 0x0E, 0x17], .floorFR24 7 16),
    ([0x1E, 0x12, 0xB2], .floorFR32 2 21),
    ([0x1E, 0x14, 0xB2], .floorRF8 5 2),
    ([0x1E, 0x18, 0xB3], .floorRF16 5 3),
    ([0x1E, 0x1E, 0xDC], .floorRF24 22 12),
    ([0x1E, 0x22, 0x71], .floorRF32 19 1),
    ([0x1E, 0x26, 0xBB], .floorFMr 11 21),
    ([0x1E, 0x28, 0xBA], .floorMrF 5 10),
    ([0x1E, 0x2F, 0xF8, 0xE5, 0x0E, 0x83], .floorFMa 15 0xE50E83),
    ([0x1E, 0x31, 0x48, 0xDA, 0xB8, 0x37], .floorMaF 0xDAB837 4)] = true := by decide +kernel

theorem test_decode_round : decodes [
    ([0x1F, 0x00, 0xB9], .roundFF 11 9),
    ([0x1F, 0x07, 0xBC], .roundFR8 12 29),
    ([0x1F, 0x0B, 0xC0], .roundFR16 0 30),
    ([0x1F, 0x0F, 0x2D], .roundFR24 13 25),
    ([0x1F, 0x11, 0xDE], .roundFR32 14 14),
    ([0x1F, 0x15, 0x9C], .roundRF8 12 12),
    ([0x1F, 0x1A, 0x87], .roundRF16 20 7),
    ([0x1F, 0x1E, 0x1B], .roundRF24 16 11),
    ([0x1F, 0x21, 0x95], .roundRF32 12 5),
    ([0x1F, 0x26, 0xC5], .roundFMr 5 22),
    ([0x1F, 0x2B, 0x4D], .roundMrF 26 13),
    ([0x1F, 0x2E, 0xE6, 0x97, 0x40, 0x87], .roundFMa 14 0x974087),
    ([0x1F, 0x30, 0x55, 0x43, 0xE0, 0x0F], .roundMaF 0x43E00F 5)] = true := by decide +kernel

theorem test_decode_memc : decodes [
    ([0x20, 0x01, 0xCC, 0x6D], .memcRRR 14 12 13),
    ([0x20, 0x06, 0x06, 0xFA, 0x48, 0x3D, 0xEE], .memcRRI 16 6 0x483DEE),
    ([0x20, 0x0B, 0x23, 0x5A, 0xC6, 0x7D, 0x6F], .memcRIR 25 0xC67D6F 26),
    ([0x20, 0x0E, 0x8A, 0xB9, 0x96, 0x58, 0x30, 0x03, 0x9D, 0x61], .memcRII 20 0x965830 0x39D61),
    ([0x20, 0x10, 0xF8, 0x51, 0x69, 0xDD, 0xF3], .memcIRR 0x69DDF3 24 17),
    ([0x20, 0x14, 0x59, 0x20, 0x7A, 0x2E, 0xAF, 0x41, 0x0D, 0x40], .memcIRI 0x7A2EAF 25 0x410D40),
    ([0x20, 0x19, 0x0A, 0x29, 0x99, 0xD2, 0xC8, 0x79, 0xD0, 0x47], .memcIIR 0x99D2C8 0x79D047 9),
    ([0x20, 0x1E, 0xF8, 0x12, 0x73, 0x42, 0x20, 0x55, 0x39, 0x66, 0xF7, 0x24, 0xF9], .memcIII 0x734220 0x553966 0xF724F9)] = true := by decide +kernel

theorem test_decode_memf : decodes [
    ([0x21, 0x02, 0xD9, 0xB0], .memfRRR 22 25 16),
    ([0x21, 0x05, 0xD5, 0x6A, 0x4B, 0x05, 0x49], .memfRRI 14 21 0x4B0549),
    ([0x21, 0x0B, 0x9A, 0x6D, 0xCC, 0xF6, 0xF6], .memfRIR 28 0xCCF6F6 13),
    ([0x21, 0x0F, 0xB3, 0xC1, 0x1E, 0xC5, 0x64, 0x65, 0x5F, 0x4A], .memfRII 29 0x1EC564 0x655F4A),
    ([0x21, 0x11, 0xF8, 0x6E, 0x50], .memfIRR 0x50 24 14),
    ([0x21, 0x14, 0xE2, 0xBD, 0xD7, 0x7D, 0x9A, 0xB9], .memfIRI 0xD7 2 0x7D9AB9),
    ([0x21, 0x1A, 0xCD, 0xD5, 0xC0, 0xA3, 0x07, 0xBE], .memfIIR 0xC0 0xA307BE 21),
    ([0x21, 0x1E, 0x08, 0x4F, 0xED, 0x0D, 0x6A, 0x2D, 0xB4, 0x9E, 0x9E], .memfIII 0xED 0xD6A2D 0xB49E9E)] = true := by decide +kernel

theorem test_decode_find : decodes [
    ([0x22, 0x02, 0xDB, 0x16], .findBI 22 0x16),
    ([0x22, 0x07, 0xD5], .findBR 30 21),
    ([0x22, 0x08, 0x96, 0xC9, 0xCC, 0x16], .findPA 4 0xC9CC16),
    ([0x22, 0x0D, 0x91], .findPR 12 17)] = true := by decide +kernel

theorem test_decode_ldregs : decodes [
    ([0x23, 0x01, 0xE6, 0x92, 0xE9, 0x70], .ldregsMa 15 6 0x92E970),
    ([0x23, 0x07, 0xE2, 0xC5], .ldregsMr 31 2 5)] = true := by decide +kernel

theorem test_decode_stregs : decodes [
    ([0x24, 0x03, 0xC9, 0x13, 0x09, 0x4B], .stregsMa 30 9 0x13094B),
    ([0x24, 0x07, 0x30, 0x2A], .stregsMr 25 16 10)] = true := by decide +kernel

theorem test_decode_ex : decodes [
    ([0x25, 0x01, 0x17], .ex8 8 23),
    ([0x25, 0x07, 0x2C], .ex16 25 12),
    ([0x25, 0x09, 0x56], .ex24 10 22),
    ([0x25, 0x0E, 0x5B], .ex32 18 27)] = true := by decide +kernel

theorem test_decode_banksel : decodes [
    ([0x26, 0x02, 0x03], .bankselI 0x03),
    ([0x26, 0x2C], .bankselR 12)] = true := by decide +kernel

theorem test_decode_rand : decodes [
    ([0x27, 0x01, 0x89], .rand8 12),
    ([0x27, 0x04, 0xA2], .rand16 5),
    ([0x27, 0x08, 0x6E], .rand24 3),
    ([0x27, 0x0E, 0x82], .rand32 20),
    ([0x27, 0x11, 0xB5, 0x64, 0xCC, 0xB9, 0x0A], .randSeedI 0x64CCB90A),
    ([0x27, 0x14, 0xC2], .randSeedR 6)] = true := by decide +kernel

theorem test_decode_wait : decodes [
    ([0x28, 0x02, 0x6E, 0x0F], .waitI 0x6E0F),
    ([0x28, 0x32], .waitR 18)] = true := by decide +kernel

theorem test_decode_setvar : decodes [
    ([0x29, 0x00, 0xBE, 0xFA, 0x45, 0x1A, 0x0B, 0xF5, 0x76, 0x3F, 0xF8], .setvarII 0xFA451A0B 0xF5763FF8),
    ([0x29, 0x07, 0x1A, 0x30, 0x00, 0xCB, 0x12], .setvarRI 24 0x3000CB12),
    ([0x29, 0x08, 0xDD, 0xB7, 0x64, 0x1F, 0xF9], .setvarIR 0xB7641FF9 29),
    ([0x29, 0x0F, 0x42], .setvarRR 26 2)] = true := by decide +kernel

theorem test_decode_getvar : decodes [
    ([0x2A, 0x01, 0xE3, 0xB9, 0xB9, 0x9F, 0x37], .getvarI 15 0xB9B99F37),
    ([0x2A, 0x04, 0x4F], .getvarR 2 15)] = true := by decide +kernel

theorem test_decode_smul : decodes [
    ([0x2B, 0x00, 0x34], .smulRR8 1 20),
    ([0x2B, 0x04, 0x85], .smulRR16 4 5),
    ([0x2B, 0x0B, 0xA9], .smulRR24 29 9),
    ([0x2B, 0x0F, 0xB4], .smulRR32 29 20),
    ([0x2B, 0x13, 0xDB, 0xE6], .smulRI8 30 0xE6),
    ([0x2B, 0x15, 0x8C, 0x3A, 0x4E], .smulRI16 12 0x3A4E),
    ([0x2B, 0x1A, 0xBB, 0xF1, 0x9A, 0x5D], .smulRI24 21 0xF19A5D),
    ([0x2B, 0x1C, 0x22, 0x37, 0xE8, 0x38, 0xEE], .smulRI32 1 0x37E838EE)] = true := by decide +kernel

theorem test_decode_play : decodes [
    ([0x2C, 0x55], .play)] = true := by decide +kernel

theorem test_decode_vcl : decodes [
    ([0x2D, 0x09, 0xA8], .vclI 0xA8),
    ([0x2D, 0x2E], .vclR 14)] = true := by decide +kernel

theorem test_decode_vdl : decodes [
    ([0x2E, 0x02, 0x73], .vdlI 0x73),
    ([0x2E, 0x20], .vdlR 0)] = true := by decide +kernel

theorem test_decode_int : decodes [
    ([0x2F, 0x08, 0x7C, 0x29], .int 8 0x7C 0x29)] = true := by decide +kernel

theorem test_decode_break : decodes [
    ([0x30], .brk)] = true := by decide +kernel

/-! ## One step of a worked example -/

/-- 95_test_vectors.md L1.1 -/
theorem test_and_ri8 : after (step (reg (start 0x100 [0x01, 0x10, 0x20, 0x0F]) .w8 1 0xA5))
    (fun t => reads t .w8 1 0x05 && t.ipo == 0x104) = true := by decide +kernel

/-- L2.4 row 10: no register has been written -/
theorem test_and_ri8_undefined : faults (step (unset 0x100 [0x01, 0x10, 0x20, 0x0F])) .readUndefined = true := by decide +kernel

/-- 95_test_vectors.md L1.1 -/
theorem test_and_ri16 : after (step (reg (start 0x100 [0x01, 0x14, 0x20, 0x00, 0xFF]) .w16 1 0x1234))
    (fun t => reads t .w16 1 0x0034 && t.ipo == 0x105) = true := by decide +kernel

/-- 95_test_vectors.md L1.1 -/
theorem test_or_ri24 : after (step (reg (start 0x100 [0x02, 0x18, 0x20, 0xF0, 0xF0, 0xF0]) .w24 1 0x123456))
    (fun t => reads t .w24 1 0xF2F4F6 && t.ipo == 0x106) = true := by decide +kernel

/-- 95_test_vectors.md L1.1 -/
theorem test_xor_ri32 : after (step (reg (start 0x100 [0x03, 0x1C, 0x20, 0x00, 0x00, 0xFF, 0xFF]) .w32 1 0xDEADBEEF))
    (fun t => reads t .w32 1 0xDEAD4110 && t.ipo == 0x107) = true := by decide +kernel

/-- 95_test_vectors.md L1.1 -/
theorem test_nor_ri16 : after (step (reg (start 0x100 [0x04, 0x14, 0x20, 0x00, 0xFF]) .w16 1 0x1234))
    (fun t => reads t .w16 1 0xED00 && t.ipo == 0x105) = true := by decide +kernel

/-- 95_test_vectors.md L2.4 row 5 -/
theorem test_and_mai32 : after (step (bytes (start 0x100 [0x01, 0x7C, 0x00, 0x12, 0x34, 0x56, 0xDE, 0xAD, 0xBE, 0xEF]) 0x123456 [0xFF, 0x00, 0xFF, 0x00]))
    (fun t => memory t 0x123456 [0xDE, 0x00, 0xBE, 0x00]) = true := by decide +kernel

/-- L2.4 row 6 -/
theorem test_and_mrr8 : after (step (bytes (reg (reg (start 0x100 [0x01, 0x40, 0x89]) .w24 4 0x000300) .w8 9 0x3F) 0x300 [0xF3]))
    (fun t => memory t 0x300 [0x33] && reads t .w8 9 0x3F) = true := by decide +kernel

/-- L2.4 row 7 -/
theorem test_and_rma8 : after (step (bytes (reg (start 0x100 [0x01, 0x30, 0x20, 0x00, 0x03, 0x00]) .w8 1 0xFF) 0x300 [0x0F]))
    (fun t => reads t .w8 1 0x0F && memory t 0x300 [0x0F]) = true := by decide +kernel

/-- L2.4 row 8 -/
theorem test_and_mar16 : after (step (bytes (reg (start 0x100 [0x01, 0x54, 0x00, 0x00, 0x03, 0x00]) .w16 0 0x0FFF) 0x300 [0xFF, 0xF0]))
    (fun t => memory t 0x300 [0x0F, 0xF0]) = true := by decide +kernel

/-- L2.4 row 9 -/
theorem test_and_rma16_range : faults (step (start 0x100 [0x01, 0x34, 0x20, 0xFF, 0xFF, 0xFF])) .memOutOfRange = true := by decide +kernel

/-- L2.5 row 3 -/
theorem test_or_mri24 : after (step (bytes (reg (start 0x100 [0x02, 0x69, 0x00, 0x00, 0x00, 0x0F]) .w24 8 0x000400) 0x400 [0x10, 0x20, 0x30]))
    (fun t => memory t 0x400 [0x10, 0x20, 0x3F]) = true := by decide +kernel

/-- L2.5 row 4 -/
theorem test_or_rr32 : after (step (reg (reg (start 0x100 [0x02, 0x0C, 0x08]) .w32 0 0xF0F0F0F0) .w32 8 0x0F0F0F0F))
    (fun t => reads t .w32 0 0xFFFFFFFF) = true := by decide +kernel

/-- L2.5 row 6 -/
theorem test_xor_rr8_same : after (step (reg (start 0x100 [0x03, 0x00, 0x63]) .w8 3 0x77))
    (fun t => reads t .w8 3 0x00) = true := by decide +kernel

/-- L2.5 row 7 -/
theorem test_xor_rr8_undefined : faults (step (unset 0x100 [0x03, 0x00, 0x63])) .readUndefined = true := by decide +kernel

/-- L2.5 row 8 -/
theorem test_xor_mai8 : after (step (bytes (start 0x100 [0x03, 0x70, 0x00, 0x00, 0x05, 0x00, 0xFF]) 0x500 [0x0F]))
    (fun t => memory t 0x500 [0xF0]) = true := by decide +kernel

/-- L2.5 row 10 -/
theorem test_nor_rr16_same : after (step (reg (start 0x100 [0x04, 0x04, 0x00]) .w16 0 0x1234))
    (fun t => reads t .w16 0 0xEDCB) = true := by decide +kernel

/-- L2.6 row 2 -/
theorem test_min_ri8_unsigned : after (step (reg (start 0x100 [0x05, 0x10, 0x40, 0x80]) .w8 2 0x90))
    (fun t => reads t .w8 2 0x80) = true := by decide +kernel

/-- L2.6 row 5 -/
theorem test_min_mar8 : after (step (bytes (reg (start 0x100 [0x05, 0x50, 0x20, 0x00, 0x06, 0x00]) .w8 1 0x08) 0x600 [0x10]))
    (fun t => memory t 0x600 [0x08]) = true := by decide +kernel

/-- L2.6 row 6 -/
theorem test_max_ri16 : after (step (reg (start 0x100 [0x06, 0x14, 0xC0, 0x80, 0x00]) .w16 6 0x7FFF))
    (fun t => reads t .w16 6 0x8000) = true := by decide +kernel

/-- L2.6 row 8 -/
theorem test_min_rf8_trunc : after (step (flt (reg (start 0x100 [0x05, 0x80, 0x22]) .w8 1 0xC8) 2 0xC18F3333))
    (fun t => reads t .w8 1 0x11) = true := by decide +kernel

/-- L2.6 row 9 -/
theorem test_min_rf8_magnitude : after (step (flt (reg (start 0x100 [0x05, 0x80, 0x22]) .w8 1 0x0A) 2 0xC0200000))
    (fun t => reads t .w8 1 0x02) = true := by decide +kernel

/-- L2.6 row 10 -/
theorem test_min_rf16_inf : after (step (flt (reg (start 0x100 [0x05, 0x84, 0x22]) .w16 1 0x04D2) 2 0x7F800000))
    (fun t => reads t .w16 1 0x04D2) = true := by decide +kernel

/-- L2.6 row 11 -/
theorem test_min_rf8_nan : after (step (flt (reg (start 0x100 [0x05, 0x80, 0x22]) .w8 1 0x0A) 2 0x7FC00000))
    (fun t => t.viewUndef .w8 1) = true := by decide +kernel

/-- L2.6 row 15 -/
theorem test_max_rf8_no_fit : after (step (flt (reg (start 0x100 [0x06, 0x80, 0x22]) .w8 1 0x0A) 2 0x43800000))
    (fun t => reads t .w8 1 0x0A) = true := by decide +kernel

/-- L2.6 row 14 -/
theorem test_max_rf8_fits : after (step (flt (reg (start 0x100 [0x06, 0x80, 0x22]) .w8 1 0x0A) 2 0x437FE666))
    (fun t => reads t .w8 1 0xFF) = true := by decide +kernel

/-- L2.6 row 17 -/
theorem test_min_ff : after (step (flt (flt (start 0x100 [0x05, 0x90, 0x01]) 0 0x40200000) 1 0xBF800000))
    (fun t => readsFloat t 0 0xBF800000 && readsFloat t 1 0xBF800000) = true := by decide +kernel

/-- L2.6 row 18 -/
theorem test_max_ff : after (step (flt (flt (start 0x100 [0x06, 0x90, 0x01]) 0 0x40200000) 1 0xBF800000))
    (fun t => readsFloat t 0 0x40200000) = true := by decide +kernel

/-- L2.7 rows 1, 5: no carry into cell 4 -/
theorem test_inc_r8 : after (step (reg (reg (start 0x100 [0x07, 0x00, 0xA0]) .w8 4 0x12) .w8 5 0xFF))
    (fun t => reads t .w8 5 0x00 && reads t .w8 4 0x12) = true := by decide +kernel

/-- L2.7 row 3 -/
theorem test_inc_ma24 : after (step (bytes (start 0x200 [0x07, 0x28, 0x00, 0x00, 0x01, 0x00]) 0x100 [0x00, 0xFF, 0xFF]))
    (fun t => memory t 0x100 [0x01, 0x00, 0x00]) = true := by decide +kernel

/-- L2.7 row 4 -/
theorem test_inc_mr32 : after (step (bytes (reg (start 0x100 [0x07, 0x1D, 0x00]) .w24 8 0x000700) 0x700 [0xFF, 0xFF, 0xFF, 0xFF]))
    (fun t => memory t 0x700 [0x00, 0x00, 0x00, 0x00]) = true := by decide +kernel

/-- L2.7 row 6 -/
theorem test_dec_r16 : after (step (reg (start 0x100 [0x08, 0x04, 0x60]) .w16 3 0x0000))
    (fun t => reads t .w16 3 0xFFFF) = true := by decide +kernel

/-- L2.7 row 9 -/
theorem test_dec_r32 : after (step (reg (start 0x100 [0x08, 0x0C, 0x00]) .w32 0 0x80000000))
    (fun t => reads t .w32 0 0x7FFFFFFF) = true := by decide +kernel

/-- L2.7 row 12, first step -/
theorem test_inv_r24 : after (step (reg (start 0x100 [0x09, 0x08, 0x80]) .w24 4 0x123456))
    (fun t => reads t .w24 4 0xEDCBA9) = true := by decide +kernel

/-- the register table, row 4 (Cell32): an 8-bit register write leaves x16[r5] UNDEF -/
theorem test_cell32_narrow_write : faults (step (reg (reg (startCell32 0x100 [0x07, 0x04, 0xA0]) .w32 5 0x12345678) .w8 5 0x7F)) .readUndefined = true := by decide +kernel

/-- the register table, row 4 (ByteOverlap) -/
theorem test_byte_overlap_narrow_write : after (step (reg (reg (start 0x100 [0x07, 0x04, 0xA0]) .w32 5 0x12345678) .w8 5 0x7F))
    (fun t => reads t .w16 5 0x7F35) = true := by decide +kernel

/-- L2.8 row 1 -/
theorem test_sl_i8 : after (step (reg (start 0x100 [0x0A, 0x00, 0x20, 0x03]) .w8 1 0x81))
    (fun t => reads t .w8 1 0x08) = true := by decide +kernel

/-- L2.8 row 4 -/
theorem test_sl_i8_wide : after (step (reg (start 0x100 [0x0A, 0x00, 0x20, 0x08]) .w8 1 0x81))
    (fun t => t.viewUndef .w8 1 && t.viewUndef .w32 30 && !t.viewUndef .w8 0) = true := by decide +kernel

/-- L2.8 row 5 -/
theorem test_sl_r32 : after (step (reg (reg (start 0x100 [0x0A, 0x1C, 0x08]) .w32 0 0x00000001) .w8 8 0x1F))
    (fun t => reads t .w32 0 0x80000000) = true := by decide +kernel

/-- L2.8 row 7 -/
theorem test_sr_r16 : after (step (reg (reg (start 0x100 [0x0B, 0x14, 0xA9]) .w16 5 0x8000) .w8 9 0x0F))
    (fun t => reads t .w16 5 0x0001) = true := by decide +kernel

/-- L2.8 row 8 -/
theorem test_sr_i24_wide : after (step (reg (start 0x100 [0x0B, 0x08, 0x80, 0x18]) .w24 4 0x123456))
    (fun t => t.viewUndef .w24 4) = true := by decide +kernel

/-- L2.8 row 9 -/
theorem test_sr_i32 : after (step (reg (start 0x100 [0x0B, 0x0C, 0x00, 0x04]) .w32 0 0xF0000000))
    (fun t => reads t .w32 0 0x0F000000) = true := by decide +kernel

/-- L2.8 row 12 -/
theorem test_rl_i16 : after (step (reg (start 0x100 [0x0C, 0x04, 0x40, 0x11]) .w16 2 0x8001))
    (fun t => reads t .w16 2 0x0003) = true := by decide +kernel

/-- L2.8 row 13 -/
theorem test_rl_i32 : after (step (reg (start 0x100 [0x0C, 0x0C, 0x00, 0x04]) .w32 0 0x12345678))
    (fun t => reads t .w32 0 0x23456781) = true := by decide +kernel

/-- L2.8 row 15 -/
theorem test_rr_i24 : after (step (reg (start 0x100 [0x0D, 0x08, 0x80, 0x04]) .w24 4 0x123456))
    (fun t => reads t .w24 4 0x612345) = true := by decide +kernel

/-- L2.8 row 17 -/
theorem test_rr_i16 : after (step (reg (start 0x100 [0x0D, 0x04, 0x40, 0xFF]) .w16 2 0x8001))
    (fun t => reads t .w16 2 0x0003) = true := by decide +kernel

/-- L2.9 row 1 -/
theorem test_set_i16 : after (step (reg (start 0x100 [0x0E, 0x04, 0x40, 0x0F]) .w16 2 0x0001))
    (fun t => reads t .w16 2 0x8001) = true := by decide +kernel

/-- L2.9 row 3 -/
theorem test_set_i8_wide : after (step (reg (start 0x100 [0x0E, 0x00, 0x20, 0x08]) .w8 1 0x01))
    (fun t => t.viewUndef .w8 1) = true := by decide +kernel

/-- L2.9 row 4 -/
theorem test_set_r32 : after (step (reg (reg (start 0x100 [0x0E, 0x1C, 0x08]) .w32 0 0x00000000) .w8 8 0x1F))
    (fun t => reads t .w32 0 0x80000000) = true := by decide +kernel

/-- L2.9 row 7 -/
theorem test_res_i24 : after (step (reg (start 0x100 [0x0F, 0x08, 0x80, 0x17]) .w24 4 0xFFFFFF))
    (fun t => reads t .w24 4 0x7FFFFF) = true := by decide +kernel

/-- L2.9 row 8 -/
theorem test_bit_i8_set : exec (.bitI8 1 3) (reg State.reset .w8 1 8) =
    .next ((reg State.reset .w8 1 8).undefFlagsBut 0 true) := rfl

/-- L2.9 row 9 -/
theorem test_bit_i8_clear : exec (.bitI8 1 2) (reg State.reset .w8 1 8) =
    .next ((reg State.reset .w8 1 8).undefFlagsBut 0 false) := rfl

/-- L2.9 row 10 -/
theorem test_bit_i8_wide : after (step (reg (start 0x100 [0x10, 0x00, 0x20, 0x08]) .w8 1 0x08))
    (fun t => t.flagBitUndef 0) = true := by decide +kernel

/-- L2.10 row 1 -/
theorem test_getbits_i16 : after (step (bytes (reg (start 0x100 [0x11, 0x04, 0x08, 0x05]) .w24 8 0x000200) 0x200 [0x05, 0xF7, 0x78]))
    (fun t => reads t .w16 0 0xBEEF) = true := by decide +kernel

/-- L2.10 row 5 -/
theorem test_getbits_r8 : after (step (bytes (reg (reg (start 0x100 [0x11, 0x10, 0x08, 0x0C]) .w24 8 0x000020) .w8 12 0x08) 0x20 [0x12, 0x34, 0x56, 0x78]))
    (fun t => reads t .w8 0 0x34) = true := by decide +kernel

/-- L2.10 row 6 -/
theorem test_setbits_i16 : after (step (bytes (reg (reg (start 0x100 [0x12, 0x04, 0x08, 0x05]) .w24 8 0x000200) .w16 0 0xBEEF) 0x200 [0x00, 0x00, 0x00]))
    (fun t => memory t 0x200 [0x05, 0xF7, 0x78]) = true := by decide +kernel

/-- L2.10 row 7 -/
theorem test_setbits_i24 : after (step (bytes (reg (reg (start 0x300 [0x12, 0x08, 0x08, 0x03]) .w24 8 0x000010) .w24 0 0x000000) 0x10 [0xFF, 0xFF, 0xFF, 0xFF, 0xFF]))
    (fun t => memory t 0x10 [0xE0, 0x00, 0x00, 0x1F, 0xFF]) = true := by decide +kernel

/-- L2.10 row 8 -/
theorem test_setbits_i16_undefined : after (step (bytes (reg (reg (start 0x100 [0x12, 0x04, 0x08, 0x05]) .w24 8 0x000200) .w16 0 0xBEEF) 0x200 [0x00, 0x00]))
    (fun t => memory t 0x200 [0x05, 0xF7] && t.byte? 0x202 == none) = true := by decide +kernel

/-- L2.10 row 9 -/
theorem test_getbits_i16_undefined : faults (step (bytes (reg (start 0x100 [0x11, 0x04, 0x08, 0x05]) .w24 8 0x000200) 0x200 [0x05, 0xF7])) .readUndefined = true := by decide +kernel

/-- L2.10 row 3, LsbFirst -/
theorem test_getbits_i8_lsb : after (step (lsbFirst (bytes (reg (start 0x100 [0x11, 0x00, 0x08, 0x04]) .w24 8 0x000010) 0x10 [0xAB, 0xCD])))
    (fun t => reads t .w8 0 0xDA) = true := by decide +kernel

/-- L1.9, LsbFirst -/
theorem test_setbits_i16_lsb : after (step (lsbFirst (bytes (reg (reg (start 0x100 [0x12, 0x04, 0x08, 0x05]) .w24 8 0x000200) .w16 0 0xBEEF) 0x200 [0x00, 0x00, 0x00])))
    (fun t => memory t 0x200 [0xE0, 0xDD, 0x17]) = true := by decide +kernel

/-- L2.10 row 10 -/
theorem test_getbits_i32_range : faults (step (bytes (reg (start 0x100 [0x11, 0x0C, 0x08, 0x01]) .w24 8 0xFFFFFC) 0xFFFFFC [0x00, 0x00, 0x00, 0x00])) .memOutOfRange = true := by decide +kernel

/-- L2.11 row 1 -/
theorem test_jp_imm : after (step (start 0x100 [0x13, 0x00, 0x00, 0x02, 0x00]))
    (fun t => t.ipo == 0x200) = true := by decide +kernel

/-- L2.11 row 2 -/
theorem test_jp_reg : after (step (reg (start 0x100 [0x13, 0x24]) .w24 4 0x001234))
    (fun t => t.ipo == 0x1234) = true := by decide +kernel

/-- L2.11 row 3 -/
theorem test_jp_cond_taken : after (step (flags (start 0x100 [0x13, 0x45, 0x00, 0x02, 0x00]) 0x20))
    (fun t => t.ipo == 0x200) = true := by decide +kernel

/-- L2.11 row 4 -/
theorem test_jp_cond_not_taken : after (step (flags (start 0x100 [0x13, 0x45, 0x00, 0x02, 0x00]) 0xFFFFFFDF))
    (fun t => t.ipo == 0x105) = true := by decide +kernel

/-- L2.11 row 5 -/
theorem test_jp_cond_undefined : faults (step (unset 0x100 [0x13, 0x45, 0x00, 0x02, 0x00])) .readUndefined = true := by decide +kernel

/-- R282: an UNDEF register faults -/
theorem test_jp_reg_undefined : faults (step (unset 0x100 [0x13, 0x24])) .readUndefined = true := by decide +kernel

/-- L2.11 row 7 -/
theorem test_jr_back : after (step (start 0x105 [0x14, 0x00, 0xFF, 0xFF, 0xFB]))
    (fun t => t.ipo == 0x100) = true := by decide +kernel

/-- L2.11 row 11 -/
theorem test_jr_wraps : after (step (start 0x100 [0x14, 0x00, 0xFF, 0xFE, 0x00]))
    (fun t => t.ipo == 0xFFFFFF00) = true := by decide +kernel

/-- L2.12 row 1 -/
theorem test_call_imm : after (step (start 0x100 [0x15, 0x00, 0x00, 0x03, 0x00]))
    (fun t => t.cs[0]? == some 0x105 && t.spc == 1 && t.ipo == 0x300) = true := by decide +kernel

/-- L2.12 row 2 -/
theorem test_call_reg : after (step (depth (reg (start 0x100 [0x15, 0x28]) .w24 8 0x000400) 2))
    (fun t => t.cs[2]? == some 0x102 && t.spc == 3 && t.ipo == 0x400) = true := by decide +kernel

/-- L2.12 row 3 -/
theorem test_call_cond_not_taken : after (step (depth (start 0x100 [0x15, 0x40, 0x00, 0x03, 0x00]) 1))
    (fun t => t.spc == 1 && t.ipo == 0x105) = true := by decide +kernel

/-- R287 -/
theorem test_call_cond_undefined : faults (step (unset 0x100 [0x15, 0x40, 0x00, 0x03, 0x00])) .readUndefined = true := by decide +kernel

/-- L2.12 row 5 -/
theorem test_call_overflow : faults (step (depth (start 0x100 [0x15, 0x00, 0x00, 0x03, 0x00]) 256)) .callStackOverflow = true := by decide +kernel

/-- L2.12 row 7 -/
theorem test_callr_back : after (step (start 0x300 [0x16, 0x00, 0xFF, 0xFF, 0x00]))
    (fun t => t.cs[0]? == some 0x305 && t.spc == 1 && t.ipo == 0x200) = true := by decide +kernel

/-- L2.12 row 8 -/
theorem test_ret_pops : after (step (pushed (start 0x300 [0x17, 0x00]) 0x105))
    (fun t => t.spc == 0 && t.running && t.ipo == 0x105) = true := by decide +kernel

/-- L2.12 row 9 -/
theorem test_ret_halts : after (step (start 0x100 [0x17, 0x00]))
    (fun t => !t.running && t.spc == 0) = true := by decide +kernel

/-- L2.12 row 10 -/
theorem test_retif_taken : after (step (flags (pushed (start 0x120 [0x18, 0x05]) 0x105) 0x20))
    (fun t => t.spc == 0 && t.ipo == 0x105) = true := by decide +kernel

/-- L2.12 row 11 -/
theorem test_retif_not_taken : after (step (pushed (start 0x120 [0x18, 0x05]) 0x105))
    (fun t => t.spc == 1 && t.ipo == 0x122) = true := by decide +kernel

/-- L2.12 row 14 -/
theorem test_retif_undefined : faults (step (unset 0x120 [0x18, 0x05])) .readUndefined = true := by decide +kernel

/-- L2.13 row 1; bits 1 and 4 kept -/
theorem test_scp_ri8_equal : after (step (flags (reg (start 0x100 [0x19, 0x10, 0x20, 0x05]) .w8 1 0x05) 0xFF))
    (fun t => readsFlag t 0 true && readsFlag t 2 false && readsFlag t 3 false && readsFlag t 5 true && readsFlag t 6 false && readsFlag t 7 false && readsFlag t 1 true && readsFlag t 4 true) = true := by decide +kernel

/-- L2.13 row 3: the exact difference of 0x80 and 0x01 is negative, the 8-bit one is not -/
theorem test_scp_sign : signedLess .w8 0x80 0x01 = true ∧ signAgrees .w8 0x80 0x01 = false := by decide

/-- L2.13 row 6 -/
theorem test_scp_rr32 : after (step (reg (reg (start 0x100 [0x19, 0x0C, 0x08]) .w32 0 0xFFFFFFFF) .w32 8 0x00000000))
    (fun t => readsFlag t 0 false && readsFlag t 2 true && readsFlag t 3 false && readsFlag t 5 false && readsFlag t 6 false && readsFlag t 7 true) = true := by decide +kernel

/-- L2.13 row 8 -/
theorem test_scp_mai16 : after (step (bytes (start 0x100 [0x19, 0x74, 0x00, 0x00, 0x03, 0x00, 0xFF, 0xFF]) 0x300 [0x00, 0x01]))
    (fun t => readsFlag t 0 false && readsFlag t 2 false && readsFlag t 3 false && readsFlag t 5 false && readsFlag t 6 true && readsFlag t 7 false && memory t 0x300 [0x00, 0x01]) = true := by decide +kernel

/-- as L2.14 row 2, with an exact root: 90000.0 is 300.0 squared -/
theorem test_sqr_rf8_no_fit : after (step (flt (reg (start 0x100 [0x1A, 0x14, 0x22]) .w8 1 0x55) 2 0x47AFC800))
    (fun t => reads t .w8 1 0x55) = true := by decide +kernel

/-- L2.14 row 4 -/
theorem test_sqr_ff : after (step (flt (start 0x100 [0x1A, 0x00, 0x01]) 1 0x41800000))
    (fun t => readsFloat t 0 0x40800000) = true := by decide +kernel

/-- L2.14 row 6 -/
theorem test_sqr_fr8 : after (step (reg (start 0x100 [0x1A, 0x04, 0x23]) .w8 1 0x09))
    (fun t => readsFloat t 3 0x40400000) = true := by decide +kernel

/-- L2.14 row 7 -/
theorem test_sqr_fma : after (step (bytes (start 0x100 [0x1A, 0x2C, 0x30, 0x00, 0x08, 0x00]) 0x800 [0x41, 0x10, 0x00, 0x00]))
    (fun t => readsFloat t 3 0x40400000) = true := by decide +kernel

/-- L2.14 row 8 -/
theorem test_sqr_maf : after (step (bytes (flt (start 0x100 [0x1A, 0x30, 0x30, 0x00, 0x08, 0x00]) 3 0x41100000) 0x800 [0x00, 0x00, 0x00, 0x00]))
    (fun t => memory t 0x800 [0x40, 0x40, 0x00, 0x00]) = true := by decide +kernel

/-- L2.14 row 9 -/
theorem test_sqr_fmr : after (step (bytes (reg (start 0x100 [0x1A, 0x24, 0x83]) .w24 4 0x000800) 0x800 [0x41, 0x80, 0x00, 0x00]))
    (fun t => readsFloat t 3 0x40800000) = true := by decide +kernel

/-- L2.14 row 10 -/
theorem test_sqr_mrf : after (step (flt (reg (start 0x100 [0x1A, 0x28, 0x83]) .w24 4 0x000800) 3 0x41800000))
    (fun t => memory t 0x800 [0x40, 0x80, 0x00, 0x00]) = true := by decide +kernel

/-- L2.14 row 11 -/
theorem test_cbr_ff : after (step (flt (start 0x100 [0x1B, 0x00, 0x01]) 1 0x41D80000))
    (fun t => readsFloat t 0 0x40400000) = true := by decide +kernel

/-- L2.14 row 12 -/
theorem test_cbr_ff_negative : after (step (flt (start 0x100 [0x1B, 0x00, 0x01]) 1 0xC1000000))
    (fun t => readsFloat t 0 0xC0000000) = true := by decide +kernel

/-- L2.14 row 13 -/
theorem test_cbr_rf8 : after (step (flt (reg (start 0x100 [0x1B, 0x14, 0x22]) .w8 1 0x07) 2 0xC1000000))
    (fun t => reads t .w8 1 0x07) = true := by decide +kernel

/-- L2.14 row 14 -/
theorem test_pow_ff : after (step (flt (flt (start 0x100 [0x1C, 0x00, 0x01]) 0 0x40000000) 1 0x41200000))
    (fun t => readsFloat t 0 0x44800000) = true := by decide +kernel

/-- L2.14 row 15 -/
theorem test_pow_ff_one : after (step (flt (flt (start 0x100 [0x1C, 0x00, 0x01]) 0 0x40600000) 1 0x3F800000))
    (fun t => readsFloat t 0 0x40600000) = true := by decide +kernel

/-- L2.14 row 18 -/
theorem test_pow_ff_undefined : faults (step (flt (unset 0x100 [0x1C, 0x00, 0x01]) 1 0x3F800000)) .readUndefined = true := by decide +kernel

/-- L2.14 row 16 -/
theorem test_pow_rf16 : after (step (flt (reg (start 0x100 [0x1C, 0x18, 0x22]) .w16 1 0x0003) 2 0x40800000))
    (fun t => reads t .w16 1 0x0051) = true := by decide +kernel

/-- L2.14 row 17 -/
theorem test_pow_rf8 : after (step (flt (reg (start 0x100 [0x1C, 0x14, 0x22]) .w8 1 0x02) 2 0x41200000))
    (fun t => reads t .w8 1 0x02) = true := by decide +kernel

/-- L2.14 row 20 -/
theorem test_sin_ff : after (step (flt (start 0x100 [0x1D, 0x00, 0x01]) 1 0x80000000))
    (fun t => readsFloat t 0 0x80000000) = true := by decide +kernel

/-- L2.14 row 21 -/
theorem test_sin_rf8 : after (step (flt (reg (start 0x100 [0x1D, 0x14, 0x22]) .w8 1 0x09) 2 0x00000000))
    (fun t => reads t .w8 1 0x00) = true := by decide +kernel

/-- L2.14 row 22 -/
theorem test_floor_ff_negative : after (step (flt (start 0x100 [0x1E, 0x00, 0x01]) 1 0xC0200000))
    (fun t => readsFloat t 0 0xC0400000) = true := by decide +kernel

/-- L2.14 row 24 -/
theorem test_floor_ff_small : after (step (flt (start 0x100 [0x1E, 0x00, 0x01]) 1 0xBF000000))
    (fun t => readsFloat t 0 0xBF800000) = true := by decide +kernel

/-- L2.14 row 25 -/
theorem test_floor_rf8_no_fit : after (step (flt (reg (start 0x100 [0x1E, 0x14, 0x22]) .w8 1 0x07) 2 0xBF000000))
    (fun t => reads t .w8 1 0x07) = true := by decide +kernel

/-- L2.14 row 26 -/
theorem test_floor_rf8_fits : after (step (flt (reg (start 0x100 [0x1E, 0x14, 0x22]) .w8 1 0x07) 2 0x437FE666))
    (fun t => reads t .w8 1 0xFF) = true := by decide +kernel

/-- L2.14 row 27 -/
theorem test_round_ff : after (step (flt (start 0x100 [0x1F, 0x00, 0x01]) 1 0x402CCCCD))
    (fun t => readsFloat t 0 0x40400000) = true := by decide +kernel

/-- L1.7, ForwardBytewise -/
theorem test_memc_iii_forward : after (step (bytes (start 0x200 [0x20, 0x1C, 0x00, 0x00, 0x00, 0x01, 0x00, 0x00, 0x01, 0x05, 0x00, 0x00, 0x0A]) 0x100 [0x00, 0x01, 0x02, 0x03, 0x04, 0x05, 0x06, 0x07, 0x08, 0x09, 0x0A, 0x0B, 0x0C, 0x0D, 0x0E]))
    (fun t => memory t 0x100 [0x00, 0x01, 0x02, 0x03, 0x04, 0x00, 0x01, 0x02, 0x03, 0x04, 0x00, 0x01, 0x02, 0x03, 0x04]) = true := by decide +kernel

/-- L1.7, Memmove -/
theorem test_memc_iii_memmove : after (step (memmove (bytes (start 0x200 [0x20, 0x1C, 0x00, 0x00, 0x00, 0x01, 0x00, 0x00, 0x01, 0x05, 0x00, 0x00, 0x0A]) 0x100 [0x00, 0x01, 0x02, 0x03, 0x04, 0x05, 0x06, 0x07, 0x08, 0x09, 0x0A, 0x0B, 0x0C, 0x0D, 0x0E])))
    (fun t => memory t 0x100 [0x00, 0x01, 0x02, 0x03, 0x04, 0x00, 0x01, 0x02, 0x03, 0x04, 0x05, 0x06, 0x07, 0x08, 0x09]) = true := by decide +kernel

/-- L2.15 row 2 -/
theorem test_memc_rrr : after (step (bytes (reg (reg (reg (start 0x100 [0x20, 0x00, 0x04, 0x08]) .w24 0 0x000200) .w24 4 0x000300) .w24 8 0x000003) 0x200 [0xAA, 0xBB, 0xCC]))
    (fun t => memory t 0x300 [0xAA, 0xBB, 0xCC]) = true := by decide +kernel

/-- L2.15 row 5 -/
theorem test_memc_iii_undefined : faults (step (bytes (bytes (start 0x100 [0x20, 0x1C, 0x00, 0x00, 0x00, 0x03, 0x00, 0x00, 0x04, 0x00, 0x00, 0x00, 0x03]) 0x300 [0xAA]) 0x302 [0xCC])) .readUndefined = true := by decide +kernel

/-- L2.15 row 6 -/
theorem test_memf_iii : after (step (start 0x100 [0x21, 0x1C, 0x00, 0x00, 0xAA, 0x00, 0x04, 0x00, 0x00, 0x00, 0x03]))
    (fun t => memory t 0x400 [0xAA, 0xAA, 0xAA]) = true := by decide +kernel

/-- L2.15 row 8 -/
theorem test_memf_rrr : after (step (reg (reg (reg (start 0x100 [0x21, 0x00, 0x04, 0x08]) .w8 0 0x00) .w24 4 0x000500) .w24 8 0x000002))
    (fun t => memory t 0x500 [0x00, 0x00]) = true := by decide +kernel

/-- L2.15 row 9 -/
theorem test_memf_iii_range : faults (step (start 0x100 [0x21, 0x1C, 0x00, 0x00, 0x11, 0xFF, 0xFF, 0xFE, 0x00, 0x00, 0x03])) .memOutOfRange = true := by decide +kernel

/-- L2.15 row 10 -/
theorem test_find_bi : after (step (bytes (reg (start 0x100 [0x22, 0x00, 0x80, 0x30]) .w24 4 0x000500) 0x500 [0x10, 0x20, 0x30]))
    (fun t => reads t .w24 4 0x000502) = true := by decide +kernel

/-- L2.15 row 12 -/
theorem test_find_br : after (step (bytes (reg (reg (start 0x100 [0x22, 0x04, 0x88]) .w24 4 0x000500) .w8 8 0x20) 0x500 [0x10, 0x20, 0x30]))
    (fun t => reads t .w24 4 0x000501) = true := by decide +kernel

/-- L2.15 row 14 -/
theorem test_find_bi_missing : after (step (bytes (reg (start 0x100 [0x22, 0x00, 0x80, 0x03]) .w24 4 0xFFFFFE) 0xFFFFFE [0x01, 0x02]))
    (fun t => t.viewUndef .w24 4) = true := by decide +kernel

/-- L2.15 row 13 -/
theorem test_find_bi_undefined : faults (step (bytes (reg (start 0x100 [0x22, 0x00, 0x80, 0x99]) .w24 4 0x000500) 0x500 [0x10, 0x20, 0x30])) .readUndefined = true := by decide +kernel

/-- L2.15 row 15 -/
theorem test_find_pa : after (step (bytes (bytes (reg (start 0x100 [0x22, 0x08, 0x80, 0x00, 0x06, 0x00]) .w24 4 0x000700) 0x600 [0x41, 0x42, 0x00]) 0x700 [0x00, 0x41, 0x41, 0x42]))
    (fun t => reads t .w24 4 0x000702) = true := by decide +kernel

/-- R354: the pattern is scanned before the start address is read -/
theorem test_find_pa_order : faults (step (registers (start 0x100 [0x22, 0x0A, 0x80, 0x00, 0x06, 0x00]) 16)) .readUndefined = true := by decide +kernel

/-- L2.15 row 16 -/
theorem test_find_pr : after (step (bytes (bytes (reg (reg (start 0x100 [0x22, 0x0C, 0x88]) .w24 4 0x000700) .w24 8 0x000600) 0x600 [0x41, 0x42, 0x00]) 0x700 [0x00, 0x41, 0x41, 0x42]))
    (fun t => reads t .w24 4 0x000702) = true := by decide +kernel

/-- L2.15 row 18 -/
theorem test_ldregs_ma : after (step (bytes (start 0x100 [0x23, 0x00, 0x82, 0x00, 0x03, 0x00]) 0x300 [0x11, 0x22, 0x33]))
    (fun t => reads t .w8 2 0x11 && reads t .w8 3 0x22 && reads t .w8 4 0x33) = true := by decide +kernel

/-- L2.15 row 19 -/
theorem test_ldregs_mr : after (step (bytes (reg (start 0x100 [0x23, 0x04, 0x01, 0x08]) .w24 8 0x000300) 0x300 [0x11, 0x22]))
    (fun t => reads t .w8 0 0x11 && reads t .w8 1 0x22) = true := by decide +kernel

/-- L2.15 row 20 -/
theorem test_stregs_ma : after (step (reg (reg (start 0x100 [0x24, 0x00, 0x43, 0x00, 0x03, 0x10]) .w8 2 0x11) .w8 3 0x22))
    (fun t => memory t 0x310 [0x11, 0x22]) = true := by decide +kernel

/-- L2.15 row 21 -/
theorem test_stregs_mr : after (step (reg (reg (reg (start 0x100 [0x24, 0x04, 0x43, 0x08]) .w24 8 0x000320) .w8 2 0x11) .w8 3 0x22))
    (fun t => memory t 0x320 [0x11, 0x22]) = true := by decide +kernel

/-- R356 -/
theorem test_stregs_ma_undefined : faults (step (reg (unset 0x100 [0x24, 0x00, 0x43, 0x00, 0x03, 0x10]) .w8 2 0x11)) .readUndefined = true := by decide +kernel

/-- L2.15 row 22 -/
theorem test_ldregs_ma_index : faults (step (registers (bytes (start 0x100 [0x23, 0x00, 0x14, 0x00, 0x03, 0x00]) 0x300 [0x00, 0x00, 0x00, 0x00, 0x00, 0x00, 0x00, 0x00, 0x00, 0x00, 0x00, 0x00, 0x00, 0x00, 0x00, 0x00, 0x00, 0x00, 0x00, 0x00, 0x00]) 16)) .regIndexOutOfRange = true := by decide +kernel

/-- L2.16 row 1 -/
theorem test_ex_32 : after (step (reg (reg (start 0x100 [0x25, 0x0C, 0x08]) .w32 0 0x00000001) .w32 8 0x00000002))
    (fun t => reads t .w32 0 0x00000002 && reads t .w32 8 0x00000001) = true := by decide +kernel

/-- L2.16 row 2 -/
theorem test_ex_16_overlap : after (step (reg (start 0x100 [0x25, 0x04, 0x01]) .w24 0 0x112233))
    (fun t => reads t .w24 0 0x221122) = true := by decide +kernel

/-- L2.16 row 4 -/
theorem test_banksel_i : after (step (reg (start 0x100 [0x26, 0x00, 0x01]) .w8 0 0x11))
    (fun t => t.bank == 1 && reads t .w8 0 0x00) = true := by decide +kernel

/-- L2.16 row 7 -/
theorem test_banksel_i_range : faults (step (banks (start 0x100 [0x26, 0x00, 0x02]) 2)) .bankOutOfRange = true := by decide +kernel

/-- L2.16 row 10 -/
theorem test_rand_seed_i : after (step (reg (start 0x100 [0x27, 0x10, 0x00, 0x12, 0x34, 0x56, 0x78]) .w32 4 0xCAFEBABE))
    (fun t => reads t .w32 4 0xCAFEBABE && t.ipo == 0x107) = true := by decide +kernel

/-- L2.16 row 11 -/
theorem test_rand_seed_r_undefined : faults (step (unset 0x100 [0x27, 0x14, 0x00])) .readUndefined = true := by decide +kernel

/-- L2.16 row 12 -/
theorem test_wait_i : after (step (start 0x100 [0x28, 0x00, 0x00, 0x64]))
    (fun t => t.events == [.wait 100] && t.ipo == 0x104) = true := by decide +kernel

/-- L2.16 row 13 -/
theorem test_wait_r : after (step (start 0x100 [0x28, 0x24]))
    (fun t => t.events == [.wait 0] && t.ipo == 0x102) = true := by decide +kernel

/-- L1.2 step 1 -/
theorem test_setvar_ii : after (step (start 0x100 [0x29, 0x00, 0x00, 0xFF, 0xFF, 0xFF, 0xFF, 0xCA, 0xFE, 0xBA, 0xBE]))
    (fun t => Store.get t.hmem 0xFFFFFFFF == some 0xCAFEBABE && t.ipo == 0x10B) = true := by decide +kernel

/-- L2.16 row 15 -/
theorem test_setvar_ri : after (step (reg (start 0x100 [0x29, 0x04, 0x00, 0x00, 0x00, 0x00, 0x07]) .w32 0 0x00000010))
    (fun t => Store.get t.hmem 0x10 == some 7) = true := by decide +kernel

/-- L2.16 row 16 -/
theorem test_setvar_ir : after (step (reg (start 0x100 [0x29, 0x08, 0x08, 0x00, 0x00, 0x00, 0x09]) .w32 8 0x000000AB))
    (fun t => Store.get t.hmem 9 == some 0xAB) = true := by decide +kernel

/-- L2.16 row 14 -/
theorem test_setvar_rr : after (step (reg (reg (start 0x100 [0x29, 0x0C, 0x08]) .w32 0 0x00000000) .w32 8 0x12345678))
    (fun t => Store.get t.hmem 0 == some 0x12345678) = true := by decide +kernel

/-- L2.16 row 18 -/
theorem test_getvar_r : after (step (variable_ (reg (start 0x100 [0x2A, 0x04, 0x08]) .w32 8 0x00000009) 9 2))
    (fun t => reads t .w32 0 0x00000002) = true := by decide +kernel

/-- L2.16 row 19 -/
theorem test_getvar_i_unwritten : faults (step (start 0x100 [0x2A, 0x00, 0x00, 0x00, 0x00, 0x00, 0x05])) .hmemUnwritten = true := by decide +kernel

/-- L2.16 row 20 -/
theorem test_smul_ri16_zero : after (step (flags (reg (start 0x100 [0x2B, 0x14, 0x20, 0x00, 0x00]) .w16 1 0x1234) 0xFF))
    (fun t => reads t .w16 1 0x1234 && t.events == [.runtimeErrorSmul] && t.flag == 0xFF && t.flagUndef == 0 && t.ipo == 0x105) = true := by decide +kernel

/-- L2.16 row 22 -/
theorem test_smul_rr8 : refuses (step (reg (start 0x100 [0x2B, 0x00, 0x25]) .w8 5 0x03)) .semanticsNotInSource = true := by decide +kernel

/-- L2.16 row 23 -/
theorem test_play : refuses (step (start 0x100 [0x2C, 0x00])) .unknownEncoding = true := by decide +kernel

/-- L2.16 row 25, all memory dropped -/
theorem test_vcl_r : after (step (reg (start 0x100 [0x2D, 0x23]) .w8 3 0x05))
    (fun t => t.events == [.manualClearBackBuffer 5] && t.mem == []) = true := by decide +kernel

/-- L2.16 row 26 -/
theorem test_vdl_i : after (step (start 0x100 [0x2E, 0x00, 0x07]))
    (fun t => t.events == [.manualUpdateBackBuffer 7]) = true := by decide +kernel

/-- L2.16 row 28 -/
theorem test_int : after (step (start 0x100 [0x2F, 0x05, 0x01, 0x00]))
    (fun t => t.events == [.interrupt 1 0 5]) = true := by decide +kernel

/-- L2.16 row 29 -/
theorem test_break : after (step (flags (start 0x120 [0x30]) 0xFF))
    (fun t => !t.running && t.flag == 0xFF && t.flagUndef == 0) = true := by decide +kernel

/-- L2.3 row 2 -/
theorem test_miss_primary : after (step (start 0x100 [0xFF]))
    (fun t => t.ipo == 0x101 && t.running) = true := by decide +kernel

/-- L2.3 row 5 -/
theorem test_miss_sub : after (step (start 0x100 [0x13, 0x60]))
    (fun t => t.ipo == 0x102) = true := by decide +kernel

/-- L2.3 row 14 -/
theorem test_fetch_past_end : faults (step (start 0xFFFFFD [0x01, 0x10, 0x20])) .fetchOutOfRange = true := by decide +kernel

/-! ## Witnesses: for every statement with hypotheses, a state and operands that meet them -/

/-- The state R53's reset leaves: every register and flag UNDEF. -/
def blank : State := unset 0 []

theorem witness_DecodeEncode : teaEncoding.wellFormed = true ∧ (Instr.memcIII 1 2 3).wellFormed = true := by decide +kernel

/-- The shortest and the longest instruction. -/
theorem witness_DecodeReadsItsLength : decodeWith teaEncoding [0x30] = .instr .brk 1 ∧
    decodeWith teaEncoding [0x20, 0x1C, 0, 0, 0, 1, 0, 0, 1, 5, 0, 0, 10] = .instr (.memcIII 0x100 0x105 10) 13 := ⟨rfl, rfl⟩

theorem witness_StepRunsDecoded : (start 0x100 [0x30]).running = true ∧
    decodeWith (start 0x100 [0x30]).params.encoding (start 0x100 [0x30]).window.1 = .instr .brk 1 := ⟨rfl, by decide +kernel⟩

/-- The clauses about bytes that cannot be fetched: `IPO` at the end of memory and at its last byte; a sub-opcode, a format byte
and a trailing byte at the end of memory; an undefined sub-opcode. Each list of bytes fetched is too short. -/
theorem witness_StepWithoutInstruction_fetch :
    (decodeWith teaEncoding [] = .short ∧ memSize ≤ ((start memSize []).ipo + BitVec.ofNat 32 0).toNat) ∧
    ((start (memSize - 1) []).ipo.toNat < memSize ∧ (start (memSize - 1) []).byte? (memSize - 1) = none) ∧
    (decodeWith teaEncoding [0x01] = .short ∧ fetchByte (start (memSize - 1) [0x01]).mem ((start (memSize - 1) [0x01]).ipo + 0) = .ok 0x01 ∧
      memSize ≤ ((start (memSize - 1) [0x01]).ipo + BitVec.ofNat 32 1).toNat) ∧
    (decodeWith teaEncoding [0x01, 0x10] = .short ∧ memSize ≤ ((start (memSize - 2) [0x01, 0x10]).ipo + BitVec.ofNat 32 2).toNat) ∧
    (decodeWith teaEncoding [0x01, 0x10, 0x20] = .short ∧
      memSize ≤ ((start (memSize - 3) [0x01, 0x10, 0x20]).ipo + BitVec.ofNat 32 3).toNat) ∧
    (start 0x100 [0x01]).byte? ((start 0x100 [0x01]).ipo + BitVec.ofNat 32 1).toNat = none := by
  refine ⟨⟨rfl, by decide +kernel⟩, by decide +kernel, ⟨rfl, by decide +kernel, by decide +kernel⟩, ⟨rfl, by decide +kernel⟩,
    ⟨rfl, by decide +kernel⟩, by decide +kernel⟩

/-- The clauses about the primary byte: a miss, an unknown byte. -/
theorem witness_StepWithoutInstruction : (fetchByte (start 0x100 [0x31]).mem 0x100 = .ok 0x31 ∧ classifyPrimary teaEncoding 0x31 = .miss) ∧
    classifyPrimary { teaEncoding with primaryMisses := [] } 0x31 = .unknown := ⟨⟨rfl, rfl⟩, rfl⟩

/-- The sub-opcode clauses: the first sub-opcode after JP's forms, a miss in the TEA, unknown in tables without misses. -/
theorem witness_StepWithoutInstruction_sub : classifyPrimary teaEncoding 0x13 = .family .jp (teaEncoding.code .jp) ∧
    fetchByte (start 0x100 [0x13, 0x60]).mem (0x100 + 1) = .ok 0x60 ∧
    classifySub .jp (teaEncoding.code .jp) 0x60 = .miss ∧
    classifySub .jp { teaEncoding.code .jp with misses := [] } 0x60 = .unknown := ⟨rfl, rfl, rfl, rfl⟩

theorem witness_HaltedIsFinal : State.reset.halt.running = false := rfl

theorem reset_inv : State.reset.Inv :=
  ⟨by decide, by decide, List.length_replicate, by decide, List.length_replicate, by decide⟩

/-- A state that meets the invariant and whose step answers a next state (a decode miss). -/
theorem witness_StepKeepsInvariant : (start 0x100 [0x31]).Inv ∧ ∃ t, step (start 0x100 [0x31]) = .next t :=
  ⟨⟨by decide, by decide, List.length_replicate, by decide, List.length_replicate, by decide⟩, _, rfl⟩

theorem witness_ResetMeetsInvariant : State.reset.params.bankExists = true ∧ Store.Wf hmemSize State.reset.hmem := by decide

/-- Each setting; the last bank and a register of it. -/
theorem witness_ResetValues : State.reset.params.hmemClearedOnReset = true ∧
    (params State.reset fun p => { p with hmemClearedOnReset := false }).params.hmemClearedOnReset = false ∧
    blank.params.undefAtReset = true ∧ 255 < blank.params.numBanks ∧ { blank.machineReset with bank := 255 }.HasReg 31 :=
  ⟨rfl, rfl, rfl, by decide, by decide⟩

/-- An image of one byte at the last address; the address before it is not listed. -/
theorem witness_ResetMemory : ∃ s : State, s.params.image = [] ++ (memSize - 1, 0xAB) :: [] ∧ memSize - 1 < memSize ∧
    (∀ c ∈ ([] : List (Nat × Byte)) ++ [], c.1 ≠ memSize - 1) ∧ ∀ c ∈ s.params.image, c.1 ≠ memSize - 2 :=
  ⟨params State.reset fun p => { p with image := [(memSize - 1, 0xAB)] }, rfl, by decide, by simp,
    by simp [params, memSize]⟩

theorem witness_ParametersNeverChange : ∃ t, step (start 0x100 [0x30]) = .next t := ⟨_, rfl⟩

/-- The classes of families in the three statements about all instructions: each completes somewhere. -/
theorem witness_OnlyWriters : (∃ t, exec (.andRR8 1 5) State.reset = .next t) ∧ (∃ t, exec (.jpImm 0x200) State.reset = .next t) ∧
    (∃ t, exec .ret State.reset = .next t) ∧ ∃ t, exec (.bankselI 255) State.reset = .next t := ⟨⟨_, rfl⟩, ⟨_, rfl⟩, ⟨_, rfl⟩, _, rfl⟩

theorem witness_MemoryAndRegisterWriters : (∃ t, exec (.slI8 1 7) State.reset = .next t ∧ Family.sl ≠ .int) ∧
    ∃ t, exec (.scpRR8 1 5) State.reset = .next t ∧ Family.scp ≠ .int := ⟨⟨_, rfl, by decide⟩, _, rfl, by decide⟩

theorem witness_FlagEffects : (∃ t, exec (.jrRel 0) State.reset = .next t) ∧ (∃ t, exec (.scpRR8 1 5) State.reset = .next t) ∧
    (∃ t, exec (.bitI8 1 7) State.reset = .next t) ∧ (∃ t, exec (.sinFF 0 1) State.reset = .next t) ∧
    ∃ t, exec (.slI8 1 7) State.reset = .next t := ⟨⟨_, rfl⟩, ⟨_, rfl⟩, ⟨_, rfl⟩, ⟨_, rfl⟩, _, rfl⟩

/-- Both layouts; the last register that exists and the first that does not; an UNDEF and a defined register, float register
and flag. -/
theorem witness_RegisterRead : State.reset.params.regLayout = .byteOverlap ∧ (cell32 State.reset).params.regLayout = .cell32 ∧
    (registers State.reset 16).HasReg 15 ∧ ¬ (registers State.reset 16).HasReg 16 ∧
    (blank.HasReg 31 ∧ blank.viewUndef .w32 31 = true ∧ State.reset.viewUndef .w32 31 = false) ∧
    (blank.activeBank.floatsUndef.toList.getD (15 : FloatIx).toNat false = true ∧
      State.reset.activeBank.floatsUndef.toList.getD (15 : FloatIx).toNat false = false) ∧
    (blank.flagUndef.getLsbD (31 : FlagIx).toNat = true ∧ State.reset.flagUndef.getLsbD (31 : FlagIx).toNat = false) ∧
    State.reset.banks[State.reset.bank]? = some (Bank.fresh false) := by
  refine ⟨rfl, rfl, by decide, by decide, ⟨by decide, by decide +kernel, by decide +kernel⟩, ⟨by decide +kernel, by decide +kernel⟩,
    ⟨by decide, by decide⟩, rfl⟩

/-- The last register; a narrow view of a 32-bit cell; a view that wraps onto the one written. -/
theorem witness_RegisterWrite : State.reset.HasReg 31 ∧ State.reset.Fits .w32 ∧ ¬ (registers State.reset 16).HasReg 16 ∧
    ((cell32 State.reset).params.regLayout = .cell32 ∧ (cell32 State.reset).bank < (cell32 State.reset).banks.length ∧
      Width.w24.bits < Width.w32.bits) ∧
    State.reset.HasReg 0 ∧ ¬ Apart State.reset.params .w16 31 .w8 0 :=
  ⟨by decide, ⟨Nat.lt_of_lt_of_eq (by decide : 0 < 256) List.length_replicate.symm, fun _ => by decide⟩, by decide,
    ⟨rfl, Nat.lt_of_lt_of_eq (by decide : 0 < 256) List.length_replicate.symm, by decide⟩, by decide,
    fun h => h 1 (by decide) 0 (by decide) rfl⟩

/-- A four-byte access at the last address where it fits and at the next one; its bytes, and an undefined one. -/
theorem witness_MemoryAccess : memSize < (0xFFFFFD : Addr).toNat + Width.w32.bytes ∧
    (0xFFFFFC : Addr).toNat + Width.w32.bytes ≤ memSize ∧
    (∀ k < Width.w32.bytes, (bytes State.reset 0xFFFFFC [0xDE, 0xAD, 0xBE, 0xEF]).byte? ((0xFFFFFC : Addr).toNat + k) =
      some ((0xDEADBEEF : Word).extractLsb' (Width.w32.bits - 8 - 8 * k) 8)) ∧
    (∃ k < Width.w32.bytes, State.reset.byte? ((0xFFFFFC : Addr).toNat + k) = none) ∧ Memory.wf State.reset.mem := by
  refine ⟨by decide, by decide, by decide, ⟨0, by decide, rfl⟩, by decide⟩

theorem witness_MemoryWriteBytes : (0xFFFFFC : Addr).toNat + Width.w32.bytes ≤ memSize := by decide

/-- A field of 16 bits that ends at the last bit of memory, defined; one that ends a bit later. -/
theorem witness_BitFieldView : memSize ≤ lastByte .w16 (0xFFFFFE : Addr).toNat (1 : Byte).toNat ∧
    lastByte .w16 (0xFFFFFE : Addr).toNat (0 : Byte).toNat < memSize ∧
    FieldDefined (bytes State.reset 0xFFFFFE [1, 2]) .w16 (0xFFFFFE : Addr).toNat (0 : Byte).toNat := by
  refine ⟨by decide, by decide, fun q h1 h2 => ?_⟩
  have e1 : firstByte (0xFFFFFE : Addr).toNat (0 : Byte).toNat = 16777214 := by decide
  have e2 : lastByte .w16 (0xFFFFFE : Addr).toNat (0 : Byte).toNat = 16777215 := by decide
  obtain rfl | rfl : q = 16777214 ∨ q = 16777215 := by omega
  · decide
  · decide

/-- A field of 16 bits from bit 4 of 0x200 on: its first byte is UNDEF and partly covered in the first state; its second is UNDEF
and fully covered in the other, where every touched byte is determined. -/
theorem witness_BitFieldView_undefined :
    ¬ FieldDefined (bytes State.reset 0x201 [1, 2]) .w16 0x200 4 ∧
    ((bytes State.reset 0x201 [1, 2]).byte? 0x200 = none ∧ ¬ FieldCovers .w16 0x200 4 0x200) ∧
    (¬ FieldDefined (bytes (bytes State.reset 0x200 [1]) 0x202 [2]) .w16 0x200 4 ∧
      FieldDetermined (bytes (bytes State.reset 0x200 [1]) 0x202 [2]) .w16 0x200 4) := by
  refine ⟨fun h => absurd (h 0x200 (by decide) (by decide)) (by decide), ⟨rfl, by decide⟩,
    fun h => absurd (h 0x201 (by decide) (by decide)) (by decide), fun q h1 h2 => ?_⟩
  have e1 : firstByte 0x200 4 = 512 := by decide
  have e2 : lastByte .w16 0x200 4 = 514 := by decide
  obtain rfl | rfl | rfl : q = 512 ∨ q = 513 ∨ q = 514 := by omega
  · exact .inl (by decide)
  · exact .inr (by decide)
  · exact .inl (by decide)

/-- A register and a source register; the four bytes at the top of memory and an immediate. -/
theorem witness_BitwiseResults : (readPlace .w8 (.reg 1) State.reset = .ok 0 ∧
      readSource .w8 (.place (.reg 31)) State.reset = .ok 0) ∧
    readPlace .w32 (.mem (.abs 0xFFFFFC)) (bytes State.reset 0xFFFFFC [1, 2, 3, 4]) = .ok 0x01020304 ∧
    readSource .w32 (.imm 7) (bytes State.reset 0xFFFFFC [1, 2, 3, 4]) = .ok 7 := ⟨⟨rfl, rfl⟩, rfl, rfl⟩

theorem witness_MinMaxResults : readPlace .w24 (.mem (.reg 4)) (bytes (reg State.reset .w24 4 0x300) 0x300 [1, 2, 3]) =
      .ok 0x010203 ∧
    readSource .w24 (.place (.reg 4)) (bytes (reg State.reset .w24 4 0x300) 0x300 [1, 2, 3]) = .ok 0x300 := ⟨rfl, rfl⟩

/-- An operand of each kind that cannot be read; a first operand that can and a second that cannot. -/
theorem witness_OperandFaults : readPlace .w16 (.mem (.abs 0xFFFFFF)) State.reset = .error .memOutOfRange ∧
    (readPlace .w8 (.reg 1) State.reset = .ok 0 ∧ readSource .w8 (.place (.mem (.abs 0x300))) State.reset = .error .readUndefined) ∧
    readReg .w8 1 blank = .error .readUndefined ∧ readReg .w32 16 (registers State.reset 16) = .error .regIndexOutOfRange ∧
    readFloatReg 0 blank = .error .readUndefined ∧ readFlag 5 blank = .error .readUndefined ∧
    readFloat (.freg 1) blank = .error .readUndefined ∧ getVar 5 State.reset = .error .hmemUnwritten ∧
    checkReg 16 (registers State.reset 16) = .error .regIndexOutOfRange ∧
    bitRead .w8 0x300 0 State.reset = .error .readUndefined ∧ scanPattern 0x300 State.reset = .error .readUndefined := by
  refine ⟨rfl, ⟨rfl, rfl⟩, rfl, rfl, rfl, rfl, rfl, rfl, rfl, rfl, rfl⟩

/-- The float destinations: an effective address that cannot be read, one too close to the top of memory, and a register that
does not exist for a result that fits. -/
theorem witness_OperandFaults_float : (readFloat (.freg 1) (registers State.reset 16) = .ok 0 ∧
      (MemRef.reg 16).address (registers State.reset 16) = .error .regIndexOutOfRange) ∧
    ((MemRef.abs 0xFFFFFD).address State.reset = .ok 0xFFFFFD ∧ memSize < (0xFFFFFD : Addr).toNat + 4) ∧
    FitsUnsigned .w8 (fsin 0) 0 ∧ ¬ (registers State.reset 16).HasReg 16 := by
  refine ⟨⟨rfl, rfl⟩, ⟨rfl, by decide⟩, ⟨by decide +kernel, by decide +kernel, fun _ => rfl, by decide⟩, by decide⟩

/-- A NaN; the largest result that fits and the smallest that does not, for MAX of 8 bits (95_test_vectors.md L2.6 rows 14, 15). -/
theorem witness_MinMaxFloatSource : readReg .w8 1 (flt State.reset 2 0x7FC00000) = .ok 0 ∧
    (readFloatReg 2 (flt State.reset 2 0x7FC00000) = .ok 0x7FC00000 ∧ isNaN 0x7FC00000 = true) ∧
    (readFloatReg 2 (flt State.reset 2 0x437FE666) = .ok 0x437FE666 ∧ isNaN 0x437FE666 = false ∧
      max ((0 : Byte).toNat * 2 ^ 149) (floatMag 0x437FE666) / 2 ^ 149 < 2 ^ Width.w8.bits) ∧
    (isNaN 0x43800000 = false ∧ 2 ^ Width.w8.bits ≤ max ((0 : Byte).toNat * 2 ^ 149) (floatMag 0x43800000) / 2 ^ 149) := by
  refine ⟨rfl, ⟨rfl, by decide +kernel⟩, ⟨rfl, by decide +kernel, by decide +kernel⟩, by decide +kernel, by decide +kernel⟩

/-- 1.0 is below 2.0; two zeros of different sign have one value. -/
theorem witness_MinMaxFloatRegisters : readFloatReg 15 (flt State.reset 15 0x3F800000) = .ok 0x3F800000 ∧
    isNaN 0x3F800000 = false ∧ isNaN 0x40000000 = false ∧
    floatInt 0x3F800000 < floatInt 0x40000000 ∧ floatInt 0x00000000 = floatInt 0x80000000 := by
  refine ⟨rfl, by decide +kernel, by decide +kernel, by decide +kernel, by decide +kernel⟩

theorem witness_IncDecResults : readPlace .w8 (.reg 31) (reg State.reset .w8 31 0xFF) = .ok 0xFF ∧
    readPlace .w16 (.mem (.abs 0xFFFFFE)) (bytes State.reset 0xFFFFFE [0, 0]) = .ok 0 := ⟨rfl, rfl⟩

theorem reset_fits (w : Width) : State.reset.Fits w := ⟨Nat.lt_of_lt_of_eq (by decide : 0 < 256) List.length_replicate.symm, fun _ => by cases w <;> decide⟩

theorem witness_ComplementResult : readPlace .w32 (.reg 31) State.reset = .ok 0 ∧ readReg .w32 31 State.reset = .ok 0 ∧ State.reset.Fits .w32 :=
  ⟨rfl, rfl, reset_fits .w32⟩

/-- The largest amount below the width and the width itself. -/
theorem witness_ShiftResults : readReg .w24 1 State.reset = .ok 0 ∧ readSource .w8 (.imm 23) State.reset = .ok 23 ∧
    (23 : Byte).toNat < Width.w24.bits ∧ readSource .w8 (.place (.reg 5)) (reg State.reset .w8 5 24) = .ok 24 ∧
    Width.w24.bits ≤ (24 : Byte).toNat := ⟨rfl, rfl, by decide, rfl, by decide⟩

theorem witness_RotateResults : readReg .w16 31 State.reset = .ok 0 ∧ readSource .w8 (.imm 255) State.reset = .ok 255 := ⟨rfl, rfl⟩

theorem witness_SetResResults : readReg .w32 1 State.reset = .ok 0 ∧ readSource .w8 (.imm 31) State.reset = .ok 31 ∧
    (31 : Byte).toNat < Width.w32.bits ∧ readSource .w8 (.imm 32) State.reset = .ok 32 ∧
    Width.w32.bits ≤ (32 : Byte).toNat := ⟨rfl, rfl, by decide, rfl, by decide⟩

theorem witness_BitTest : readReg .w8 1 State.reset = .ok 0 ∧ readSource .w8 (.imm 7) State.reset = .ok 7 ∧ (7 : Byte).toNat < Width.w8.bits ∧
    readSource .w8 (.imm 8) State.reset = .ok 8 ∧ Width.w8.bits ≤ (8 : Byte).toNat := ⟨rfl, rfl, by decide, rfl, by decide⟩

/-- A state whose `r8` addresses the last two bytes of memory, both defined. -/
def atTop : State := bytes (reg State.reset .w24 8 0xFFFFFE) 0xFFFFFE [1, 2]

/-- A field that ends at the last bit of memory and one that ends a bit later. -/
theorem witness_GetbitsResults : atTop.HasReg 0 ∧ readReg .w24 8 atTop = .ok 0xFFFFFE ∧ readSource .w8 (.imm 0) atTop = .ok 0 ∧
    readSource .w8 (.imm 1) atTop = .ok 1 ∧ memSize ≤ lastByte .w16 (0xFFFFFE : Addr).toNat (1 : Byte).toNat ∧
    lastByte .w16 (0xFFFFFE : Addr).toNat (0 : Byte).toNat < memSize ∧ FieldDefined atTop .w16 (0xFFFFFE : Addr).toNat (0 : Byte).toNat := by
  refine ⟨by decide, rfl, rfl, rfl, by decide, by decide, fun q h1 h2 => ?_⟩
  have e1 : firstByte (0xFFFFFE : Addr).toNat (0 : Byte).toNat = 16777214 := by decide
  have e2 : lastByte .w16 (0xFFFFFE : Addr).toNat (0 : Byte).toNat = 16777215 := by decide
  obtain rfl | rfl : q = 16777214 ∨ q = 16777215 := by omega
  · decide
  · decide

/-- An UNDEF byte in the field. -/
theorem witness_GetbitsResults_undefined : readReg .w24 8 (reg State.reset .w24 8 0x200) = .ok 0x200 ∧
    lastByte .w16 (0x200 : Addr).toNat (5 : Byte).toNat < memSize ∧
    ¬ FieldDefined (reg State.reset .w24 8 0x200) .w16 (0x200 : Addr).toNat (5 : Byte).toNat :=
  ⟨rfl, by decide, fun h => absurd (h 0x200 (by decide) (by decide)) (by decide)⟩

/-- The field is UNDEF, inside memory; one bit past the end of memory in the other state. -/
theorem witness_SetbitsResults : readReg .w24 8 (reg State.reset .w24 8 0x200) = .ok 0x200 ∧
    readReg .w16 0 (reg State.reset .w24 8 0x200) = .ok 0 ∧ readSource .w8 (.imm 5) (reg State.reset .w24 8 0x200) = .ok 5 ∧
    lastByte .w16 (0x200 : Addr).toNat (5 : Byte).toNat < memSize ∧
    readReg .w24 8 atTop = .ok 0xFFFFFE ∧ memSize ≤ lastByte .w16 (0xFFFFFE : Addr).toNat (1 : Byte).toNat :=
  ⟨rfl, rfl, rfl, by decide, rfl, by decide⟩

/-- The last flag: 1, 0 and UNDEF; a register that is defined, one that does not exist, one that is UNDEF. -/
theorem witness_JumpResults : readReg .w24 31 State.reset = .ok 0 ∧ ¬ (registers State.reset 16).HasReg 16 ∧
    (blank.HasReg 31 ∧ blank.viewUndef .w24 31 = true) ∧ readFlag 31 (flags State.reset 0x80000000) = .ok true ∧
    readFlag 31 State.reset = .ok false ∧ blank.flagBitUndef 31 = true := by
  refine ⟨rfl, by decide, ⟨by decide, by decide +kernel⟩, rfl, rfl, by decide⟩

/-- The last free entry of the call stack and a full call stack; a flag of each kind; a register of each kind. -/
theorem witness_CallResults : (depth State.reset 255).spc < (depth State.reset 255).params.callStackDepth ∧
    (depth State.reset 256).params.callStackDepth ≤ (depth State.reset 256).spc ∧ readReg .w24 4 State.reset = .ok 0 ∧
    readFlag 0 (flags State.reset 1) = .ok true ∧ readFlag 0 State.reset = .ok false ∧ blank.flagBitUndef 0 = true ∧
    ¬ (registers State.reset 16).HasReg 16 ∧ blank.HasReg 31 ∧ blank.viewUndef .w24 31 = true :=
  ⟨by decide, by decide, rfl, rfl, rfl, by decide, by decide, by decide, by decide +kernel⟩

/-- An empty and a full call stack, a flag of each kind. -/
theorem witness_ReturnResults : State.reset.spc ≤ State.reset.cs.length ∧ State.reset.spc = 0 ∧ readFlag 5 State.reset = .ok false ∧
    (depth State.reset 256).spc ≤ (depth State.reset 256).cs.length ∧ 0 < (depth State.reset 256).spc ∧
    readFlag 5 (flags State.reset 0x20) = .ok true ∧ (blank.spc ≤ blank.cs.length ∧ blank.flagBitUndef 5 = true) := by
  have h : State.reset.cs.length = 256 := List.length_replicate
  exact ⟨Nat.zero_le _, rfl, rfl, Nat.le_of_eq h.symm, by decide, rfl, Nat.zero_le _, by decide⟩

theorem witness_CallThenReturn : (depth State.reset 255).spc < (depth State.reset 255).params.callStackDepth ∧
    (depth State.reset 255).cs.length = (depth State.reset 255).params.callStackDepth ∧
    (∃ addr, Instr.callImm 0x300 = .callImm addr) ∧ readReg .w24 31 (depth State.reset 255) = .ok 0 ∧
    readFlag 31 (flags (depth State.reset 255) 0x80000000) = .ok true :=
  ⟨by decide, List.length_replicate, ⟨_, rfl⟩, rfl, rfl⟩

/-- 1 against -1, where the signs agree; -128 against 1, where they do not. -/
theorem witness_CompareResults : readPlace .w8 (.reg 1) (reg State.reset .w8 1 0x80) = .ok 0x80 ∧
    readSource .w8 (.imm 1) (reg State.reset .w8 1 0x80) = .ok 1 ∧
    decide ((0x01 : Byte).toInt - (0xFF : Byte).toInt < 0) = ((0x01 : Byte) - 0xFF).msb ∧
    decide ((0x80 : Byte).toInt - (0x01 : Byte).toInt < 0) ≠ ((0x80 : Byte) - 0x01).msb := ⟨rfl, rfl, by decide, by decide⟩

/-- Inputs and destinations of each kind; 4.0 and its root 2.0, -8.0 and its cube root -2.0. -/
theorem witness_RootResults : (readFloat (.freg 1) State.reset = .ok 0 ∧ (FloatPlace.freg 0).Writable (fsqrt 0) State.reset) ∧
    (∃ x, readFloat (.ireg .w8 1) State.reset = .ok x) ∧ (FloatPlace.ireg .w8 31).Writable (fcbrt 0) State.reset ∧
    (readFloat (.mem (.abs 0xFFFFFC)) (bytes State.reset 0xFFFFFC [0x40, 0x80, 0, 0]) = .ok 0x40800000 ∧
      (FloatPlace.mem (.abs 0xFFFFFC)).Writable 0x40000000 State.reset) ∧
    (floatInt 0x40000000 ^ 2 = floatInt 0x40800000 * 2 ^ 149 ∧ 0 ≤ floatInt 0x40800000 ∧ 0 ≤ floatInt 0x40000000) ∧
    floatInt 0xC0000000 ^ 3 = floatInt 0xC1000000 * 2 ^ 298 := by
  refine ⟨⟨rfl, trivial⟩, ⟨_, rfl⟩, fun _ => by decide, ⟨rfl, _, rfl, by decide⟩,
    ⟨by decide +kernel, by decide +kernel, by decide +kernel⟩, by decide +kernel⟩

/-- 2.0 to the power 24.0 at the bound; -1.0 to the power -3.0. -/
theorem witness_PowerResults : readFloat (.freg 0) State.reset = .ok 0 ∧ isFinite 0x40000000 = true ∧
    (isFinite 0x41C00000 = true ∧ floatInt 0x40000000 = 2 * 2 ^ 149 ∧ floatInt 0x41C00000 = 24 * 2 ^ 149 ∧
      (2 : Int) ^ 24 ≤ 2 ^ 24) ∧
    (floatInt 0xBF800000 = -1 * 2 ^ 149 ∧ floatInt 0xC0400000 = -3 * 2 ^ 149) := by
  refine ⟨rfl, by decide +kernel, ⟨by decide +kernel, by decide +kernel, by decide +kernel, by decide⟩,
    by decide +kernel, by decide +kernel⟩

theorem witness_SineResults : readFloat (.freg 1) State.reset = .ok 0 ∧ (FloatPlace.ireg .w8 31).Writable (fsin 0) State.reset ∧
    floatInt 0x80000000 = 0 := ⟨rfl, fun _ => by decide, by decide +kernel⟩

/-- A finite value, a NaN, an infinity, a zero; an input and a destination. -/
theorem witness_FloorResults : isFinite 0xC0200000 = true ∧ isNaN 0x7FC00000 = true ∧
    (isFinite 0x7F800000 = false ∧ isNaN 0x7F800000 = false) ∧ floatInt 0x80000000 = 0 ∧
    readFloat (.freg 1) State.reset = .ok 0 ∧ (FloatPlace.freg 0).Writable (ffloor 0) State.reset := by
  refine ⟨by decide +kernel, by decide +kernel, by decide +kernel, by decide +kernel, rfl, trivial⟩

/-- A tie, and the largest finite value; an input and a destination. -/
theorem witness_RoundResults : isFinite 0x40200000 = true ∧ isFinite 0x7F7FFFFF = true ∧
    readFloat (.freg 1) State.reset = .ok 0 ∧ (FloatPlace.freg 0).Writable (fround 0) State.reset :=
  ⟨by decide +kernel, by decide +kernel, rfl, trivial⟩

/-- The largest register value that is converted exactly by rule; a defined and an UNDEF float register. -/
theorem witness_FloatConversions : readReg .w24 0 (reg State.reset .w24 0 0xFFFFFF) = .ok 0xFFFFFF ∧
    (0xFFFFFF : Addr).toNat < 2 ^ 24 ∧ (MemRef.abs 0x800).address State.reset = .ok 0x800 ∧
    State.reset.floatUndef 15 = false ∧ blank.floatUndef 15 = true :=
  ⟨rfl, by decide, rfl, by decide +kernel, by decide +kernel⟩

/-- A block that reaches the top of memory and one past it; a defined and an undefined source. -/
theorem witness_BlockCopy : readSource .w24 (.imm 0x100) State.reset = .ok 0x100 ∧
    (¬ BlockFits (0xFFFFFF : Addr).toNat (2 : Addr).toNat ∧ BlockFits (0xFFFFFE : Addr).toNat (2 : Addr).toNat ∧
      BlockFits (0x100 : Addr).toNat (2 : Addr).toNat ∧ BlockFits (0xFFFFFF : Addr).toNat (0 : Addr).toNat) ∧
    (∃ k < (2 : Addr).toNat, State.reset.byte? ((0x100 : Addr).toNat + k) = none) ∧
    ∀ k < (2 : Addr).toNat, ((bytes State.reset 0x100 [1, 2]).byte? ((0x100 : Addr).toNat + k)).isSome := by
  refine ⟨rfl, ⟨?_, ?_, ?_, ?_⟩, ⟨0, by decide, rfl⟩, by decide⟩ <;> unfold BlockFits <;> decide

theorem witness_BlockFill : readSource .w8 (.imm 0xAA) State.reset = .ok 0xAA ∧
    readSource .w24 (.imm 0xFFFFFE) State.reset = .ok 0xFFFFFE ∧ ¬ BlockFits (0xFFFFFE : Addr).toNat (3 : Addr).toNat ∧
    BlockFits (0xFFFFFE : Addr).toNat (2 : Addr).toNat := by
  refine ⟨rfl, rfl, ?_, ?_⟩ <;> unfold BlockFits <;> decide

/-- The byte is found one address on, at the top of memory. -/
theorem witness_FindByteResults : readReg .w24 8 atTop = .ok 0xFFFFFE ∧ readSource .w8 (.imm 2) atTop = .ok 2 ∧
    (∀ k < 1, ∃ c, atTop.byte? ((0xFFFFFE : Addr).toNat + k) = some c ∧ c ≠ 2) ∧ (0xFFFFFE : Addr).toNat + 1 < memSize ∧
    atTop.byte? ((0xFFFFFE : Addr).toNat + 1) = some 2 := by
  exact ⟨rfl, rfl, fun k hk => ⟨1, by obtain rfl : k = 0 := by omega
                                      rfl, by decide⟩, by decide, rfl⟩

/-- The byte is nowhere up to the top of memory; it is looked for where nothing is written. -/
theorem witness_FindByteResults_missing : (∀ k < memSize - (0xFFFFFE : Addr).toNat,
      ∃ c, atTop.byte? ((0xFFFFFE : Addr).toNat + k) = some c ∧ c ≠ 3) ∧
    (readReg .w24 8 State.reset = .ok 0 ∧ (0 : Addr).toNat + 0 < memSize ∧ State.reset.byte? ((0 : Addr).toNat + 0) = none) := by
  have e : (0xFFFFFE : Addr).toNat = 16777214 := by decide
  refine ⟨fun k hk => ?_, rfl, by decide, rfl⟩
  rw [e] at hk ⊢
  obtain rfl | rfl : k = 0 ∨ k = 1 := by simp only [memSize] at hk; omega
  · exact ⟨1, rfl, by decide⟩
  · exact ⟨2, rfl, by decide⟩

/-- A state with the pattern 41 42 00 at 0x600 and the bytes 00 41 42 at 0x700 (95_test_vectors.md L2.15 row 15). -/
def patterned : State := bytes (bytes (reg State.reset .w24 4 0x700) 0x600 [0x41, 0x42, 0]) 0x700 [0, 0x41, 0x42]

/-- The pattern is found one address on. -/
theorem witness_FindPatternResults : readReg .w24 4 patterned = .ok 0x700 ∧ (MemRef.abs 0x600).address patterned = .ok 0x600 ∧
    (∀ b ∈ ([0x41, 0x42] : List Byte), b ≠ 0) ∧ BytesAt patterned 0x600 ([0x41, 0x42] ++ [0]) ∧ 0x600 + 2 < memSize ∧
    (∀ k < 1, DiffersAt patterned (0x700 + k) [0x41, 0x42]) ∧ BytesAt patterned (0x700 + 1) [0x41, 0x42] ∧
    0x700 + 1 + 2 ≤ memSize := by
  refine ⟨rfl, rfl, by decide, ?_, by decide, fun k hk => ?_, ?_, by decide⟩
  · intro k hk
    obtain rfl | rfl | rfl : k = 0 ∨ k = 1 ∨ k = 2 := by simp at hk; omega
    all_goals rfl
  · obtain rfl : k = 0 := by omega
    exact ⟨0, by decide, fun j hj => by simp at hj, 0, rfl, by decide⟩
  · intro k hk
    obtain rfl | rfl : k = 0 ∨ k = 1 := by simp at hk; omega
    all_goals rfl

/-- A pattern of one byte that differs from both bytes up to the top of memory; no zero byte up to the top of memory. -/
theorem witness_FindPatternResults_missing : (∀ k, (0xFFFFFE : Addr).toNat + k + 1 ≤ memSize →
      DiffersAt atTop ((0xFFFFFE : Addr).toNat + k) [3]) ∧
    ∀ q, 16777214 ≤ q → q < memSize → ∃ c, atTop.byte? q = some c ∧ c ≠ 0 := by
  have e : (0xFFFFFE : Addr).toNat = 16777214 := by decide
  refine ⟨fun k hk => ?_, fun q h1 h2 => ?_⟩
  · rw [e] at hk ⊢
    obtain rfl | rfl : k = 0 ∨ k = 1 := by simp only [memSize] at hk; omega
    · exact ⟨0, by decide, fun j hj => by simp at hj, 1, rfl, by decide⟩
    · exact ⟨0, by decide, fun j hj => by simp at hj, 2, rfl, by decide⟩
  · obtain rfl | rfl : q = 16777214 ∨ q = 16777215 := by simp only [memSize] at h2; omega
    · exact ⟨1, rfl, by decide⟩
    · exact ⟨2, rfl, by decide⟩

/-- An address register that does not exist, beside a terminated pattern. -/
theorem witness_FindPatternResults_register : BytesAt (bytes (registers State.reset 16) 0x600 [0x41, 0]) 0x600 ([0x41] ++ [0]) ∧
    0x600 + 1 < memSize ∧ readReg .w24 16 (bytes (registers State.reset 16) 0x600 [0x41, 0]) = .error .regIndexOutOfRange := by
  refine ⟨fun k hk => ?_, by decide, rfl⟩
  obtain rfl | rfl : k = 0 ∨ k = 1 := by simp at hk; omega
  all_goals rfl

/-- The comparison at 0x702 meets the UNDEF byte at 0x703 after a matching one; the scan of a pattern from 0x701 on meets it
before a zero byte. -/
theorem witness_FindPatternResults_undefined : UndefinedAt patterned 0x702 [0x42, 0x43] ∧
    (∀ k < 2, ∃ c, patterned.byte? (0x701 + k) = some c ∧ c ≠ 0) ∧ patterned.byte? (0x701 + 2) = none := by
  refine ⟨⟨1, by decide, fun k hk => ?_, rfl⟩, fun k hk => ?_, rfl⟩
  · obtain rfl : k = 0 := by simp at hk; omega
    rfl
  · obtain rfl | rfl : k = 0 ∨ k = 1 := by omega
    · exact ⟨0x41, rfl, by decide⟩
    · exact ⟨0x42, rfl, by decide⟩

/-- Two registers, the last of them the last that exists; a block at the top of memory and one past it; a defined and an
undefined block. -/
theorem witness_LoadRegisters : (MemRef.abs 0xFFFFFE).address atTop = .ok 0xFFFFFE ∧
    (0xFFFFFE : Addr).toNat + (max (31 : RegIx).toNat (30 : RegIx).toNat - min (31 : RegIx).toNat (30 : RegIx).toNat + 1) ≤ memSize ∧
    memSize < (0xFFFFFF : Addr).toNat + (max (31 : RegIx).toNat (30 : RegIx).toNat - min (31 : RegIx).toNat (30 : RegIx).toNat + 1) ∧
    (max (31 : RegIx).toNat (30 : RegIx).toNat < atTop.params.numIntRegs ∧
      (registers atTop 31).params.numIntRegs ≤ max (31 : RegIx).toNat (30 : RegIx).toNat) ∧
    BytesAt atTop (0xFFFFFE : Addr).toNat [1, 2] ∧ State.reset.byte? ((0xFFFFFE : Addr).toNat + 0) = none := by
  refine ⟨rfl, by decide, by decide, ⟨by decide, by decide⟩, fun k hk => ?_, rfl⟩
  obtain rfl | rfl : k = 0 ∨ k = 1 := by simp at hk; omega
  all_goals rfl

/-- Two registers at the top of memory and three past it; the second register missing, or UNDEF. -/
theorem witness_StoreRegisters : (MemRef.reg 8).address atTop = .ok 0xFFFFFE ∧
    (0xFFFFFE : Addr).toNat + (max (31 : RegIx).toNat (30 : RegIx).toNat - min (31 : RegIx).toNat (30 : RegIx).toNat + 1) ≤ memSize ∧
    memSize < (0xFFFFFE : Addr).toNat + (max (31 : RegIx).toNat (29 : RegIx).toNat - min (31 : RegIx).toNat (29 : RegIx).toNat + 1) ∧
    (∀ k (h : k < ([0, 0] : List Byte).length), readReg .w8 (BitVec.ofNat 5 (30 + k)) atTop = .ok ([0, 0] : List Byte)[k]) ∧
    (readReg .w8 (BitVec.ofNat 5 (30 + 0)) (registers atTop 31) = .ok 0 ∧
      readReg .w8 (BitVec.ofNat 5 (30 + 1)) (registers atTop 31) = .error .regIndexOutOfRange) ∧
    (readReg .w8 (BitVec.ofNat 5 (30 + 0)) (reg blank .w8 30 7) = .ok 7 ∧
      readReg .w8 (BitVec.ofNat 5 (30 + 1)) (reg blank .w8 30 7) = .error .readUndefined) := by
  refine ⟨rfl, by decide, by decide, fun k hk => ?_, ⟨rfl, rfl⟩, rfl, rfl⟩
  obtain rfl | rfl : k = 0 ∨ k = 1 := by simp at hk; omega
  all_goals rfl

theorem witness_ExchangeResults : readReg .w32 0 State.reset = .ok 0 ∧ readReg .w32 8 State.reset = .ok 0 ∧ State.reset.Fits .w32 ∧
    Apart State.reset.params .w32 8 .w32 0 := by
  refine ⟨rfl, rfl, reset_fits .w32, ?_⟩
  show ∀ k < 4, ∀ l < 4, (8 + k) % 32 ≠ (0 + l) % 32
  decide

/-- The last bank that exists and the first that does not. -/
theorem witness_BankSelectResults : readSource .w8 (.imm 255) State.reset = .ok 255 ∧
    (255 : Byte).toNat < State.reset.params.numBanks ∧ (banks State.reset 255).params.numBanks ≤ (255 : Byte).toNat :=
  ⟨rfl, by decide, by decide⟩

theorem witness_RandomResults : State.reset.HasReg 31 ∧ readSource .w32 (.place (.reg 31)) State.reset = .ok 0 := ⟨by decide, rfl⟩

theorem witness_WaitResults : readSource .w16 (.imm 100) State.reset = .ok 100 := rfl

/-- The last key, unwritten and written. -/
theorem witness_VariableResults : readSource .w32 (.imm 0xFFFFFFFF) State.reset = .ok 0xFFFFFFFF ∧ State.reset.HasReg 0 ∧
    Store.get State.reset.hmem (0xFFFFFFFF : Word).toNat = none ∧
    Store.get (variable_ State.reset 0xFFFFFFFF 7).hmem (0xFFFFFFFF : Word).toNat = some 7 ∧ State.reset.Fits .w32 :=
  ⟨rfl, by decide, rfl, rfl, reset_fits .w32⟩

theorem witness_SmulResults : readSource .w8 (.imm 0) State.reset = .ok 0 ∧
    readSource .w8 (.imm 1) State.reset = .ok 1 := ⟨rfl, rfl⟩

/-- The last address of a footprint and the one after it. -/
theorem witness_GraphicsResults : readSource .w8 (.imm 7) State.reset = .ok 7 ∧
    (∃ r ∈ State.reset.params.hostMemFootprint, r.1 ≤ 16777215 ∧ 16777215 ≤ r.2) ∧
    ¬ ∃ r ∈ (params State.reset fun p => { p with hostMemFootprint := [(0, 255)] }).params.hostMemFootprint,
      r.1 ≤ 256 ∧ 256 ≤ r.2 := by
  refine ⟨rfl, by decide, by decide⟩

theorem witness_InterruptResults : State.reset.bank < State.reset.params.numBanks := by decide

end Sys2Proof.Tests
end

section
/-! The parameters of 00_scope.md R7 through a step: what a step that answers a next state can have done, and that none of
it writes the parameters. -/

namespace Sys2Proof.Proofs

open Sys2Proof.Machine

/-- The three ways a step answers a next state (40_dispatch.md R160, R163, R166): the machine is halted, the bytes at `IPO`
are a decode miss, or they are an instruction, which runs with `IPO` past it. -/
theorem step_eq_next {s t : State} (h : step s = .next t) :
    (s.running = false ∧ t = s) ∨
    (s.running = true ∧ ∃ n, decodeWith s.params.encoding s.window.1 = .miss n ∧ t = s.advance n) ∨
    (s.running = true ∧ ∃ i n, decodeWith s.params.encoding s.window.1 = .instr i n ∧ exec i (s.advance n) = .next t) := by
  unfold step at h
  split at h
  case isFalse hr => exact .inl ⟨by simpa using hr, (Host.Outcome.next.inj h).symm⟩
  case isTrue hr =>
    split at h
    case h_1 i n hd => exact .inr (.inr ⟨hr, i, n, hd, h⟩)
    case h_2 n hd => exact .inr (.inl ⟨hr, n, hd, (Host.Outcome.next.inj h).symm⟩)
    case h_3 => cases h
    case h_4 => cases h

/-- No instruction writes the parameters: `Executed.all` goes through the constructors, and `Done` of any family keeps
them, INT's handler included (log 14). -/
theorem exec_params {i : Instr} {s t : State} (h : exec i s = .next t) : t.params = s.params :=
  (Laws.Executed.all i s t h).params

/-- Settles O12, by the ways a step answers a next state. -/
theorem parametersNeverChange : Obligations.ParametersNeverChange := by
  intro s t h
  obtain ⟨-, rfl⟩ | ⟨-, n, -, rfl⟩ | ⟨-, i, n, -, hexec⟩ := step_eq_next h
  · rfl
  · exact s.advance_params n
  · calc t.params = (s.advance n).params := exec_params hexec
      _ = s.params := s.advance_params n

end Sys2Proof.Proofs
end

section
/-! The families and the control state (10_state.md R37, R45, R48 to R52): which families may change a piece of state, and what
each does to the flags. Both are read off `Done`, what `Executed.all` says an instruction that answers has done. -/

namespace Sys2Proof.Proofs

open Sys2Proof.Machine

/-- An instruction that answers has done what its family may do. -/
theorem exec_done {i : Instr} {s t : State} (h : exec i s = .next t) : Done i.code.family s t :=
  Laws.Executed.all i s t h

/-! ## Writers of a piece of state -/

/-- The families that may change a piece of state, INT apart. -/
def writers (f : Field) : List Family := Family.all.filter fun m => decide (f ∈ m.mayChange)

theorem mem_writers_iff {f : Field} {m : Family} : m ∈ writers f ↔ f ∈ m.mayChange := by
  have hm : m ∈ Family.all := List.mem_of_getElem? (Family.all_index m)
  simp [writers, hm]

theorem writers_bank : writers .bank = [.banksel] := rfl
theorem writers_spc : writers .spc = [.call, .callr, .ret, .retif] := rfl
theorem writers_cs : writers .cs = [.call, .callr] := rfl
theorem writers_hmem : writers .hmem = [.setvar] := rfl
theorem writers_running : writers .running = [.ret, .retif, .brk] := rfl
theorem writers_rng : writers .rng = [.rand] := rfl
theorem writers_ipo : writers .ipo = [.jp, .jr, .call, .callr, .ret, .retif, .brk] := rfl
theorem writers_events : writers .events = [.wait, .smul, .vcl, .vdl] := rfl

/-- A piece of state stays as it was under every instruction whose family is not one of its writers. -/
theorem exec_keeps {i : Instr} {s t : State} (h : exec i s = .next t) (hint : i.code.family ≠ .int) {f : Field}
    {ms : List Family} (hw : writers f ⊆ ms) (hm : i.code.family ∉ ms) : f.Same s t :=
  ((exec_done h).unchanged hint).2 f fun hf => hm (hw (mem_writers_iff.mpr hf))

/-- Settles O13: of each piece of control state the writers are among the families the statement names. -/
theorem onlyWriters : Obligations.OnlyWriters := by
  intro i s t h hint
  have kept {f : Field} {ms : List Family} (hw : writers f ⊆ ms) : i.code.family ∉ ms → f.Same s t := exec_keeps h hint hw
  have keptBy {f : Field} {m : Family} (hw : writers f ⊆ [m]) (hm : i.code.family ≠ m) : f.Same s t :=
    kept hw (by simpa using hm)
  refine ⟨?bank, ?stack, ?hmem, ?running, ?rng, ?ipo, ?events⟩
  case bank => exact keptBy (f := .bank) (by simp [writers_bank])
  case stack => exact fun hm => ⟨kept (f := .spc) (by simp [writers_spc]) hm, kept (f := .cs) (by simp [writers_cs]) hm⟩
  case hmem => exact keptBy (f := .hmem) (by simp [writers_hmem])
  case running => exact kept (f := .running) (by simp [writers_running])
  case rng => exact keptBy (f := .rng) (by simp [writers_rng])
  case ipo => exact kept (f := .ipo) (by simp [writers_ipo])
  case events => exact kept (f := .events) (by simp [writers_events])

/-! ## Flags -/

/-- The families that leave every flag. -/
abbrev flagKeepers : List Family := [.jp, .jr, .call, .callr, .ret, .retif, .brk, .smul]

/-- The float families (44_float.md), whose range check reports in a flag (R323). -/
abbrev floatFamilies : List Family := [.sqr, .cbr, .pow, .sin, .floor, .round]

theorem flagRule_of_keeper {m : Family} (hm : m ∈ flagKeepers) (s t : State) :
    m.FlagRule s t ↔ t.flag = s.flag ∧ t.flagUndef = s.flagUndef := by
  simp only [List.mem_cons, List.not_mem_nil, or_false] at hm
  rcases hm with rfl | rfl | rfl | rfl | rfl | rfl | rfl | rfl <;> rfl

theorem flagRule_of_float {m : Family} (hm : m ∈ floatFamilies) (s t : State) :
    m.FlagRule s t ↔ FlagsUndef s t ∨ ∃ b, FlagsUndefBut s.params.ovfBit.index b s t := by
  simp only [List.mem_cons, List.not_mem_nil, or_false] at hm
  rcases hm with rfl | rfl | rfl | rfl | rfl | rfl <;> rfl

/-- Every family with no rule of its own leaves every flag UNDEF (10_state.md R42). -/
theorem flagRule_of_other {m : Family} (hm : m ∉ flagKeepers ++ [.scp, .bit] ++ floatFamilies) (s t : State) :
    m.FlagRule s t ↔ FlagsUndef s t := by
  cases m <;> simp [Family.FlagRule] at hm ⊢

/-- Settles O15: `Done` holds the family's `FlagRule`, which is the statement's clause for each class of families. -/
theorem flagEffects : Obligations.FlagEffects := by
  intro i s t h hint
  have hrule : i.code.family.FlagRule s t := (exec_done h).flags hint
  generalize i.code.family = m at hrule
  refine ⟨fun hm => (flagRule_of_keeper hm s t).mp hrule, ?scp, ?bit, fun hm => (flagRule_of_float hm s t).mp hrule,
    fun hm => (flagRule_of_other hm s t).mp hrule⟩
  case scp => rintro rfl; exact hrule
  case bit => rintro rfl; exact hrule

end Sys2Proof.Proofs
end

section
/-! The state a reset creates (10_state.md R53, 70_reset_and_hazards.md R450): its memory, its invariant, its UNDEF registers
and flags. -/

namespace Sys2Proof.Proofs

open Sys2Proof.Machine

/-! ## The image in memory -/

section Image
variable {α : Type}

/-- Place one pair of the image, unless its key lies outside the bound. -/
def placePair (bound : Nat) (m : List (Nat × α)) (c : Nat × α) : List (Nat × α) :=
  if c.1 < bound then Store.put m c.1 c.2 else m

theorem normal_eq_foldl (bound : Nat) (l : List (Nat × α)) : Store.normal bound l = l.foldl (placePair bound) [] := rfl

theorem get_placePair_self {bound a : Nat} (ha : a < bound) (m : List (Nat × α)) (v : α) :
    Store.get (placePair bound m (a, v)) a = some v := by
  simp [placePair, ha]

theorem get_placePair_ne {bound a : Nat} {c : Nat × α} (hc : c.1 ≠ a) (m : List (Nat × α)) :
    Store.get (placePair bound m c) a = Store.get m a := by
  unfold placePair
  split
  · exact Store.get_put_ne m c.2 hc.symm
  · rfl

theorem get_foldl_placePair_unlisted (bound : Nat) {a : Nat} {l : List (Nat × α)} (hl : ∀ c ∈ l, c.1 ≠ a)
    (m : List (Nat × α)) : Store.get (l.foldl (placePair bound) m) a = Store.get m a := by
  induction l generalizing m with
  | nil => rfl
  | cons c l ih =>
    obtain ⟨hc, hl⟩ := List.forall_mem_cons.mp hl
    rw [List.foldl_cons, ih hl, get_placePair_ne hc]

theorem get_normal_unlisted (bound : Nat) {a : Nat} {l : List (Nat × α)} (hl : ∀ c ∈ l, c.1 ≠ a) :
    Store.get (Store.normal bound l) a = none :=
  get_foldl_placePair_unlisted bound hl []

/-- A later pair wins, so the pairs before the last one of a key do not matter. -/
theorem get_normal_listed {bound a : Nat} (ha : a < bound) {v : α} {pre post : List (Nat × α)} (hl : ∀ c ∈ post, c.1 ≠ a) :
    Store.get (Store.normal bound (pre ++ (a, v) :: post)) a = some v := by
  rw [normal_eq_foldl, List.foldl_append, List.foldl_cons, get_foldl_placePair_unlisted bound hl, get_placePair_self ha]

end Image

theorem byte?_machineReset (s : State) (a : Nat) :
    s.machineReset.byte? a = Store.get (Store.normal memSize s.params.image) a := rfl

/-- Settles O11: the memory after a reset is the canonical form of the image. -/
theorem resetMemory : Obligations.ResetMemory := by
  intro s a
  refine ⟨fun pre b post himage ha honce => ?listed, fun hnone => ?unlisted⟩
  case listed =>
    rw [byte?_machineReset, himage]
    exact get_normal_listed ha fun c hc => honce c (List.mem_append_right pre hc)
  case unlisted => exact get_normal_unlisted memSize hnone

/-! ## The invariant -/

theorem boot_inv {p : Params} {hmem : List (Nat × Word)} (hbank : p.bankAtReset < p.numBanks) (hwf : Store.Wf hmemSize hmem)
    (draws : Nat) (events : List HostEvent) : (State.boot p hmem draws events).Inv where
  memory := Store.normal_wf memSize p.image
  highMemory := hwf
  bankCount := List.length_replicate
  bankExists := hbank
  stackSize := List.length_replicate
  stackDepth := Nat.zero_le _

/-- Settles O9: both resets are `State.boot`, from an empty or from the surviving high-memory store. -/
theorem resetMeetsInvariant : Obligations.ResetMeetsInvariant := by
  refine ⟨boot_inv (by decide) (Store.nil_wf hmemSize) 0 [], fun s hexists hwf => ?_⟩
  have hbank : s.params.bankAtReset < s.params.numBanks := by simpa [Params.bankExists] using hexists
  cases hcleared : s.params.hmemClearedOnReset with
  | true => simpa [State.machineReset, hcleared] using boot_inv hbank (Store.nil_wf hmemSize) s.draws s.events
  | false => simpa [State.machineReset, hcleared] using boot_inv hbank hwf s.draws s.events

/-! ## UNDEF registers and flags -/

theorem replicate_get {α : Type} {n : Nat} (x : α) (i : Fin n) : (Vector.replicate n x).get i = x :=
  Vector.getElem_replicate i.isLt

/-- Every view of a bank whose every register is UNDEF is UNDEF. -/
theorem viewUndef_of_fresh {t : State} (hfresh : t.activeBank = Bank.fresh true) (w : Width) (i : RegIx) :
    t.viewUndef w i = true := by
  cases hlayout : t.params.regLayout with
  | byteOverlap =>
    simp only [State.viewUndef, hlayout, hfresh, readCells_any]
    exact ⟨0, w.bytes_pos, replicate_get true _⟩
  | cell32 =>
    have hword : (Bank.fresh true).wordsUndef.get i.toFin = allBits true := replicate_get _ _
    simp only [State.viewUndef, hlayout, hfresh, hword]
    exact allBits_setWidth w true

theorem floatUndef_of_fresh {t : State} (hfresh : t.activeBank = Bank.fresh true) (j : FloatIx) : t.floatUndef j = true := by
  rw [State.floatUndef, hfresh]
  exact replicate_get true j.toFin

/-- After a reset the active bank is fresh, whichever bank is selected. -/
theorem activeBank_machineReset (s : State) {k : Nat} (hk : k < s.params.numBanks) :
    { s.machineReset with bank := k }.activeBank = Bank.fresh s.params.undefAtReset := by
  simp [State.activeBank, State.machineReset, State.boot, hk]

theorem flagBitUndef_machineReset (s : State) (n : FlagIx) : s.machineReset.flagBitUndef n = s.params.undefAtReset :=
  allBits_getLsbD s.params.undefAtReset n

theorem hmem_machineReset (s : State) :
    s.machineReset.hmem = if s.params.hmemClearedOnReset then [] else s.hmem := rfl

/-- Settles O10, field by field; the reads fault because every mark of a fresh bank and of the flags is set. -/
theorem resetValues : Obligations.ResetValues := by
  refine ⟨fun s => ⟨rfl, rfl, rfl, rfl, rfl, ?cleared, ?kept, ?undef⟩, rfl, rfl, rfl, rfl, rfl, rfl⟩
  case cleared => exact fun h => by rw [hmem_machineReset, h]; rfl
  case kept => exact fun h => by rw [hmem_machineReset, h]; rfl
  case undef =>
    intro hundef k hk t
    have hfresh : t.activeBank = Bank.fresh true := by rw [activeBank_machineReset s hk, hundef]
    have hflag (n : FlagIx) : t.flagBitUndef n = true := (flagBitUndef_machineReset s n).trans hundef
    exact ⟨fun w i hi => readReg_undefined hi (viewUndef_of_fresh hfresh w i),
      fun j => readFloatReg_undefined (floatUndef_of_fresh hfresh j), fun n => readFlag_undefined (hflag n)⟩

end Sys2Proof.Proofs
end

section
/-! Reading and writing the register views, the float registers and the flags (10_state.md R31 to R40, 40_dispatch.md R170):
what a read gives as the cells of the active bank, and what a read gives after a write. -/

namespace Sys2Proof.Proofs

open Sys2Proof.Machine

/-! ## What a read gives, cell by cell -/

theorem vector_get_eq_getD {α : Type} {n : Nat} (b : Vector α n) (i : Fin n) (d : α) : b.get i = b.toList.getD i.val d := by
  simp [List.getD_eq_getElem?_getD, Vector.get]

theorem get_cellIndex {α : Type} {n : Nat} (hn : 0 < n) (h32 : n ≤ 32) (b : Vector α 32) (k : Nat) (d : α) :
    b.get (cellIndex n k) = b.toList.getD (k % n) d := by
  rw [vector_get_eq_getD b _ d, cellIndex_val hn h32]

theorem numIntRegs_pos {s : State} {i : RegIx} (hi : s.HasReg i) : 0 < s.params.numIntRegs.val :=
  Nat.zero_lt_of_lt hi

theorem numIntRegs_le (s : State) : s.params.numIntRegs.val ≤ 32 := Nat.lt_succ_iff.mp s.params.numIntRegs.isLt

/-- Byte `k` of a view is a byte cell (10_state.md R33, `ByteOverlap`). -/
theorem view_byte {s : State} (hlayout : s.params.regLayout = .byteOverlap) {i : RegIx} (hi : s.HasReg i) {w : Width} {k : Nat}
    (hk : k < w.bytes) : (s.view w i).extractLsb' (w.bits - 8 - 8 * k) 8 =
      s.activeBank.bytes.toList.getD ((i.toNat + k) % s.params.numIntRegs) 0 := by
  rw [State.view_byteOverlap hlayout, extract_ofNat_beToNat w _ (by simp) k (by simpa using hk), readCells_getElem,
    get_cellIndex (numIntRegs_pos hi) (numIntRegs_le s)]

/-- A view is UNDEF when one of its byte cells is (10_state.md R33, `ByteOverlap`). -/
theorem viewUndef_byteOverlap_iff {s : State} (hlayout : s.params.regLayout = .byteOverlap) {i : RegIx} (hi : s.HasReg i)
    (w : Width) : s.viewUndef w i = true ↔
      ∃ k < w.bytes, s.activeBank.bytesUndef.toList.getD ((i.toNat + k) % s.params.numIntRegs) false = true := by
  simp only [State.viewUndef, hlayout, readCells_any, get_cellIndex (numIntRegs_pos hi) (numIntRegs_le s) _ _ false]

theorem bitvec_ne_zero_iff {n : Nat} (v : BitVec n) : (v != 0) = true ↔ ∃ k < n, v.getLsbD k = true := by
  simp [BitVec.eq_of_getLsbD_eq_iff]

/-- A view is UNDEF when one of its bits is (10_state.md R33, `Cell32`). -/
theorem viewUndef_cell32_iff {s : State} (hlayout : s.params.regLayout = .cell32) (w : Width) (i : RegIx) :
    s.viewUndef w i = true ↔ ∃ k < w.bits, (s.activeBank.wordsUndef.toList.getD i.toNat 0).getLsbD k = true := by
  simp only [State.viewUndef, hlayout, vector_get_eq_getD _ _ (0 : Word)]
  rw [bitvec_ne_zero_iff]
  exact exists_congr fun k => and_congr_right fun hk => by simp [hk]

theorem activeBank_eq_of_getElem? {s : State} {b : Bank} (h : s.banks[s.bank]? = some b) : s.activeBank = b := by
  simp [State.activeBank, h]

/-- Settles O16: the cells by the lemmas above, the outcomes of a read by the laws of `readReg`, `readFloatReg`, `readFlag`. -/
theorem registerRead : Obligations.RegisterRead := by
  intro s w i j n
  have hfloat : s.floatUndef j = s.activeBank.floatsUndef.toList.getD j.toNat false := vector_get_eq_getD _ _ false
  have hvalue : s.float j = s.activeBank.floats.toList.getD j.toNat 0 := vector_get_eq_getD _ _ 0
  refine ⟨fun b => activeBank_eq_of_getElem?,
    fun hlayout hi => ⟨fun k => view_byte hlayout hi, viewUndef_byteOverlap_iff hlayout hi w⟩,
    fun hlayout => ⟨?cell, viewUndef_cell32_iff hlayout w i⟩, fun hi => readReg_error hi w, readReg_undefined, readReg_ok,
    ?undefFloat, ?float, readFlag_undefined, readFlag_ok⟩
  case cell => rw [State.view_cell32 hlayout, vector_get_eq_getD _ _ (0 : Word)]; rfl
  case undefFloat => rw [← hfloat]; exact readFloatReg_undefined
  case float => rw [← hfloat, ← hvalue]; exact readFloatReg_ok

/-! ## What a read gives after a write -/

/-- A value written to a view is read back. -/
theorem readReg_of_written {w : Width} {i : RegIx} {v : BitVec w.bits} {s t : State} (h : RegWritten w i v s t)
    (hi : t.HasReg i) (hfits : s.Fits w) : readReg w i t = .ok v := by
  rw [readReg_ok hi (h.defined hfits.1 rfl), h.value hfits]

/-- A float register written is read back. -/
theorem readFloatReg_of_written {j : FloatIx} {p : Word} {s t : State} (h : FloatWritten j p s t)
    (hbank : s.bank < s.banks.length) : readFloatReg j t = .ok p := by
  obtain ⟨hvalue, hdefined⟩ := h.value hbank
  rw [readFloatReg_ok hdefined, hvalue]

theorem writeReg_error {i : RegIx} {s : State} (h : ¬ s.HasReg i) (w : Width) (v : BitVec w.bits) :
    writeReg w i v s = .error .regIndexOutOfRange := by
  rw [writeReg, checkReg_error h]; rfl

theorem hasReg_congr {s t : State} (h : t.params = s.params) (i : RegIx) : t.HasReg i ↔ s.HasReg i := by
  rw [State.HasReg, h]

/-- Settles O17: `setView`, `setViewFree` and `setFloat` do what `RegWritten`, `RegUndef` and `FloatWritten` say, and the reads
after them follow from those. -/
theorem registerWrite : Obligations.RegisterWrite := by
  intro s w i
  refine ⟨fun hi v => writeReg_error hi w v, fun hi v => ?value, fun hi => ?undef, fun j p => ?float⟩
  case value =>
    have hw := State.setView_written hi w v
    have hreg : (s.setView w i v).HasReg i := (hasReg_congr (s.setView_params w i v) i).mpr hi
    exact ⟨s.setView w i v, writeReg_ok hi w v, hw, s.setView_unchanged w i v, readReg_of_written hw hreg,
      fun hlayout hbank w' hlt => readReg_undefined hreg (hw.above hbank hlayout w' hlt)⟩
  case undef =>
    obtain ⟨v, -, hbecomes⟩ := State.setViewFree_undef hi w
    refine ⟨State.setViewFree_undef hi w, s.setViewFree_unchanged w i, fun hbank w' j hj hmeet => ?_⟩
    have hreg : (s.setViewFree w i).HasReg j := (hasReg_congr (s.setViewFree_params w i) j).mpr hj
    exact readReg_undefined hreg (hbecomes.undefined hbank rfl w' j hmeet)
  case float =>
    have hf := s.setFloat_written j p
    exact ⟨hf, s.setFloat_unchanged j p, readFloatReg_of_written hf⟩

end Sys2Proof.Proofs
end

section
/-! CALL and CALLR (43_control_compare.md R285 to R288): the state a call leaves, and when a call completes or faults. -/

namespace Sys2Proof.Proofs

open Sys2Proof.Machine

/-! ## The push and the state a call leaves -/

/-- The state after `IPO` is pushed and set to a target. -/
def called (s : State) (target : Word) : State := { s with cs := s.cs.set s.spc s.ipo, spc := s.spc + 1, ipo := target }

theorem called_top {s : State} (h : s.spc < s.cs.length) (target : Word) : (called s target).cs[s.spc]? = some s.ipo :=
  List.getElem?_set_self h

theorem called_others (s : State) (target : Word) {k : Nat} (hk : k ≠ s.spc) : (called s target).cs[k]? = s.cs[k]? :=
  List.getElem?_set_ne hk.symm

theorem called_unchanged (s : State) (target : Word) : Unchanged [.cs, .spc, .ipo] s (called s target) := by
  apply Unchanged.of <;> simp [called]

/-- A push leaves `IPO`, so it is a call to the instruction that follows. -/
theorem pushReturn_ok {s : State} (h : s.spc < s.params.callStackDepth) : pushReturn s = .ok (called s s.ipo) := if_pos h

theorem pushReturn_overflow {s : State} (h : s.params.callStackDepth ≤ s.spc) : pushReturn s = .error .callStackOverflow :=
  if_neg (Nat.not_lt.mpr h)

theorem callTo_ok {s : State} (h : s.spc < s.params.callStackDepth) (a : Addr) : callTo a s = .ok (called s (a.setWidth 32)) := by
  rw [callTo, pushReturn_ok h]; rfl

theorem callTo_overflow {s : State} (h : s.params.callStackDepth ≤ s.spc) (a : Addr) :
    callTo a s = .error .callStackOverflow := by
  rw [callTo, pushReturn_overflow h]; rfl

/-! ## The call instructions -/

theorem exec_callImm (addr : Addr) (s : State) : exec (.callImm addr) s = finish (callTo addr s) := rfl

theorem exec_callReg (r : RegIx) (s : State) :
    exec (.callReg r) s = finish (readReg .w24 r s >>= fun a => callTo a s) := rfl

theorem exec_callReg_ok {r : RegIx} {s : State} {a : Addr} (h : readReg .w24 r s = .ok a) :
    exec (.callReg r) s = finish (callTo a s) := by
  rw [exec_callReg, h]; rfl

theorem exec_callReg_fault {r : RegIx} {s : State} {f : Fault} (h : readReg .w24 r s = .error f) :
    exec (.callReg r) s = .fault f := by
  rw [exec_callReg, h]; rfl

theorem exec_callCond (flag : FlagIx) (addr : Addr) (s : State) :
    exec (.callCond flag addr) s = finish (readFlag flag s >>= fun c => if c then callTo addr s else return s) := rfl

theorem exec_callCond_taken {flag : FlagIx} {s : State} (h : readFlag flag s = .ok true) (addr : Addr) :
    exec (.callCond flag addr) s = finish (callTo addr s) := by
  rw [exec_callCond, h]; rfl

theorem exec_callCond_notTaken {flag : FlagIx} {s : State} (h : readFlag flag s = .ok false) (addr : Addr) :
    exec (.callCond flag addr) s = .next s := by
  rw [exec_callCond, h]; rfl

theorem exec_callCond_fault {flag : FlagIx} {s : State} {f : Fault} (h : readFlag flag s = .error f) (addr : Addr) :
    exec (.callCond flag addr) s = .fault f := by
  rw [exec_callCond, h]; rfl

theorem exec_callrRel (off : BitVec 24) (s : State) :
    exec (.callrRel off) s = finish (pushReturn s >>= fun u => return u.jumpRelative off) := rfl

theorem exec_callrRel_ok {s : State} (h : s.spc < s.params.callStackDepth) (off : BitVec 24) :
    exec (.callrRel off) s = .next (called s (s.ipo + off.signExtend 32 - 5)) := by
  rw [exec_callrRel, pushReturn_ok h]; rfl

theorem exec_callrRel_overflow {s : State} (h : s.params.callStackDepth ≤ s.spc) (off : BitVec 24) :
    exec (.callrRel off) s = .fault .callStackOverflow := by
  rw [exec_callrRel, pushReturn_overflow h]; rfl

/-- Settles O35: with room every kind of call leaves `called`, without room the push faults, and a target or a flag that
cannot be read faults before the push. -/
theorem callResults : Obligations.CallResults := by
  unfold Obligations.CallResults
  intro Called s
  have hcalled (target : Word) : Called target s (called s target) :=
    ⟨rfl, rfl, fun h => called_top h target, fun _ hk => called_others s target hk, called_unchanged s target⟩
  refine ⟨fun hroom => ?room, fun hfull => ?full, fun flag addr hf => exec_callCond_notTaken hf addr,
    fun flag addr hu => exec_callCond_fault (readFlag_undefined hu) addr, fun r hr => exec_callReg_fault (readReg_error hr .w24),
    fun r hr hu => exec_callReg_fault (readReg_undefined hr hu)⟩
  case room =>
    have hto (a : Addr) : finish (callTo a s) = .next (called s (a.setWidth 32)) := by rw [callTo_ok hroom, finish_ok]
    exact ⟨fun addr => ⟨_, (exec_callImm addr s).trans (hto addr), hcalled _⟩,
      fun r a ha => ⟨_, (exec_callReg_ok ha).trans (hto a), hcalled _⟩,
      fun flag addr hf => ⟨_, (exec_callCond_taken hf addr).trans (hto addr), hcalled _⟩,
      fun off => ⟨_, exec_callrRel_ok hroom off, hcalled _⟩⟩
  case full =>
    have hto (a : Addr) : finish (callTo a s) = .fault .callStackOverflow := by rw [callTo_overflow hfull, finish_error]
    exact ⟨fun addr => (exec_callImm addr s).trans (hto addr), fun r a ha => (exec_callReg_ok ha).trans (hto a),
      fun flag addr hf => (exec_callCond_taken hf addr).trans (hto addr), fun off => exec_callrRel_overflow hfull off⟩

end Sys2Proof.Proofs
end

section
/-! The machine's invariant through a step, and reads and writes of memory (20_memory.md R80 to R86). -/

namespace Sys2Proof.Proofs

open Sys2Proof.Machine

/-! ## The invariant -/

/-- Moving `IPO` past the bytes consumed touches nothing the invariant speaks of (40_dispatch.md R163, R166). -/
theorem advance_inv {s : State} (hinv : s.Inv) (n : Nat) : (s.advance n).Inv where
  memory := hinv.memory
  highMemory := hinv.highMemory
  bankCount := hinv.bankCount
  bankExists := hinv.bankExists
  stackSize := hinv.stackSize
  stackDepth := hinv.stackDepth

/-- No instruction breaks the invariant: the operations keep it one by one, BANKSEL and a call by their own range checks, a
return by counting down, INT because its handler leaves a machine state (log 14). -/
theorem exec_inv {i : Instr} {s t : State} (h : exec i s = .next t) (hinv : s.Inv) : t.Inv := (exec_done h).inv hinv

/-- Settles O8, by the ways a step answers a next state. -/
theorem stepKeepsInvariant : Obligations.StepKeepsInvariant := by
  intro s t hinv h
  obtain ⟨-, rfl⟩ | ⟨-, n, -, rfl⟩ | ⟨-, i, n, -, hexec⟩ := step_eq_next h
  · exact hinv
  · exact advance_inv hinv n
  · exact exec_inv hexec (advance_inv hinv n)

/-! ## Reads and writes of memory -/

/-- A write inside memory completes: its bytes are stored (20_memory.md R84), nothing but memory changes, and memory stays
canonical. -/
theorem writeMem_completes {w : Width} {a : Addr} (s : State) (v : BitVec w.bits) (hfit : a.toNat + w.bytes ≤ memSize) :
    ∃ t, writeMem w a v s = .ok t ∧ MemWritten w a.toNat v s t ∧ Effect [.mem] s t :=
  ⟨_, writeMem_ok v hfit, putBytes_written w a.toNat v s, Effect.putBytes (.inr (by simpa using hfit))⟩

/-- A value written to memory is read back. -/
theorem readMem_of_written {w : Width} {a : Addr} {v : BitVec w.bits} {s t : State} (h : MemWritten w a.toNat v s t)
    (hfit : a.toNat + w.bytes ≤ memSize) : readMem w a t = .ok v :=
  readMem_ok hfit h.1

/-- Settles O18: the range check decides between the fault and the access, and what a write leaves is read back from the
bytes it stored. -/
theorem memoryAccess : Obligations.MemoryAccess := by
  intro s w a v
  refine ⟨fun hpast => ⟨readMem_error_range hpast, writeMem_error v hpast⟩,
    fun hfit => ⟨readMem_ok hfit, readMem_error_undefined hfit, ?write⟩⟩
  case write =>
    obtain ⟨t, hok, hwritten, heffect⟩ := writeMem_completes s v hfit
    exact ⟨t, hok, hwritten, readMem_of_written hwritten hfit, heffect.unchanged, heffect.memory⟩

/-- Settles O19: `MemWritten` in the numbering of R84, where a value of `n` bytes has `8n` bits. -/
theorem memoryWriteBytes : Obligations.MemoryWriteBytes := by
  intro s w a v hfit
  obtain ⟨t, hok, hwritten, -⟩ := writeMem_completes s v hfit
  rw [← Width.bits_eq]
  exact ⟨t, hok, hwritten.1⟩

end Sys2Proof.Proofs
end

section
/-! The decoder and the encoder (30_encoding.md R110 to R133): which bytes the decoder reads as an instruction, decoding of an
encoding, the length of an instruction, and the mixed register byte. -/

namespace Sys2Proof.Proofs

/-! ## When the decoder reads an instruction -/

/-- The decoder's three ways to an instruction (R110, R129, R131): BREAK is its primary byte alone, PLAY is a primary byte and
any sub-opcode, and every other instruction is the form its sub-opcode selects, made of the fields read. -/
inductive Reads (e : Encoding) : List Byte → Instr → Nat → Prop
  | brk {op : Byte} {fc : FamilyCode} (hop : classifyPrimary e op = .family .brk fc) (bs : List Byte) :
    Reads e (op :: bs) .brk 1
  | play {op : Byte} {fc : FamilyCode} (hop : classifyPrimary e op = .family .play fc) (s : Byte) (bs : List Byte) :
    Reads e (op :: s :: bs) .play 2
  | form {op s : Byte} {m : Family} {fc : FamilyCode} {r : Row} {f : Fields} {bs : List Byte}
    (hop : classifyPrimary e op = .family m fc) (hbrk : m ≠ .brk) (hplay : m ≠ .play) (hsub : classifySub m fc s = .form r)
    (hf : readFields r s bs = some f) : Reads e (op :: s :: bs) (r.build f) r.length

theorem reads_of_family {e : Encoding} {op : Byte} {m : Family} {fc : FamilyCode} (hop : classifyPrimary e op = .family m fc)
    (hbrk : m ≠ .brk) (hplay : m ≠ .play) {bs : List Byte} {i : Instr} {n : Nat} (h : decodeWith e (op :: bs) = .instr i n) :
    Reads e (op :: bs) i n := by
  cases bs with
  | nil => rw [decodeWith_family_nil hop hbrk] at h; cases h
  | cons s bs =>
    rw [decodeWith_family hop hbrk hplay] at h
    cases hsub : classifySub m fc s with
    | miss => rw [hsub] at h; cases h
    | unknown => rw [hsub] at h; cases h
    | form r =>
      cases hf : readFields r s bs with
      | none => simp [hsub, hf] at h
      | some f =>
        simp only [hsub, hf, Decoded.instr.injEq] at h
        obtain ⟨rfl, rfl⟩ := h
        exact .form hop hbrk hplay hsub hf

theorem decodeWith_eq_instr_iff {e : Encoding} {bs : List Byte} {i : Instr} {n : Nat} :
    decodeWith e bs = .instr i n ↔ Reads e bs i n := by
  constructor
  · intro h
    cases bs with
    | nil => cases h
    | cons op bs =>
      cases hop : classifyPrimary e op with
      | miss => rw [decodeWith_miss hop] at h; cases h
      | unknown => rw [decodeWith_unknown hop] at h; cases h
      | family m fc =>
        by_cases hbrk : m = .brk
        · subst hbrk
          rw [decodeWith_brk hop] at h
          cases h
          exact .brk hop bs
        by_cases hplay : m = .play
        · subst hplay
          cases bs with
          | nil => rw [decodeWith_family_nil hop hbrk] at h; cases h
          | cons s bs =>
            rw [decodeWith_play hop] at h
            cases h
            exact .play hop s bs
        exact reads_of_family hop hbrk hplay h
  · intro h
    cases h with
    | brk hop bs => exact decodeWith_brk hop bs
    | play hop s bs => exact decodeWith_play hop s bs
    | form hop hbrk hplay hsub hf => simp only [decodeWith_family hop hbrk hplay, hsub, hf]

/-! ## Decoding an encoding -/

theorem length_trailBytes (ns vs : List Nat) : (trailBytes ns vs).length = ns.sum := by
  induction ns generalizing vs with
  | nil => rfl
  | cons n ns ih => simp [trailBytes, ih]

/-- The bytes of an encoding but the primary byte and the sub-opcode. -/
theorem length_formBytes (f : Fields) {r : Row} (hp : r.fmt ≠ .p) (vs : List Nat) :
    (f.formatBytes r.fmt ++ trailBytes r.trail vs).length + 2 = r.length := by
  have hfmt : (f.formatBytes r.fmt).length + 2 = r.fmt.bytes := by
    cases hr : r.fmt with
    | p => exact absurd hr hp
    | s5 | m2 | m3 | f2 => rfl
  rw [List.length_append, length_trailBytes, Row.length]
  omega

/-- Every form has a sub-opcode (R115). -/
theorem fmt_ne_p {m : Family} {r : Row} (hr : r ∈ m.rows) : r.fmt ≠ .p := by
  intro hp
  have hshift := Family.row_shift hr
  simp [hp] at hshift

theorem encodeWith_brk (e : Encoding) : encodeWith e .brk = [(e.code .brk).opc] := rfl

theorem encodeWith_form (e : Encoding) {i : Instr} {r : Row} (hbrk : i.code.family ≠ .brk)
    (hr : i.code.family.rows[i.code.index]? = some r) :
    encodeWith e i =
      let vc := (e.code i.code.family).codes.getD i.code.index default
      (e.code i.code.family).opc :: BitVec.ofNat 8 (vc.v * 2 ^ vc.k + i.code.fields.subLow r.fmt) ::
        (i.code.fields.formatBytes r.fmt ++ trailBytes r.trail i.code.fields.imms) := by
  rw [encodeWith]
  split
  case h_1 hm => exact absurd hm hbrk
  case h_2 hnone _ => rw [hr] at hnone; cases hnone
  case h_3 hsome _ => rw [hr] at hsome; cases hsome; rfl

/-- The encoding of an instruction with a sub-opcode is read as the instruction: the tables give its primary byte and its
sub-opcode back (R111, R112), and its fields are read back from the bytes they were written to (R113 to R116). -/
theorem reads_encoded_form {e : Encoding} (he : e.wellFormed = true) {i : Instr} (hbrk : i.code.family ≠ .brk)
    (hplay : i.code.family ≠ .play) (hrow : i.HasRow) (rest : List Byte) :
    Reads e (encodeWith e i ++ rest) i (encodeWith e i).length := by
  obtain ⟨r, hr, hbuild, hfields⟩ := hrow
  have hmem : r ∈ i.code.family.rows := List.mem_of_getElem? hr
  obtain ⟨v, hv, hcode, hsub⟩ := classifySub_form he hr (i.code.fields.subLow_lt hmem)
  have hread := readFields_written hmem hfields hv rest
  have hreads := Reads.form (classifyPrimary_opc he _) hbrk hplay hsub hread
  rw [hbuild, ← length_formBytes i.code.fields (fmt_ne_p hmem) i.code.fields.imms] at hreads
  rw [encodeWith_form e hbrk hr, hcode]
  exact hreads

/-- Settles O1, by the ways an instruction is read: BREAK is its primary byte, PLAY is not well formed, and every other
instruction is a row of its family (`Encoded.all`). -/
theorem decodeEncode : Obligations.DecodeEncode := by
  intro e i rest he hi
  rw [decodeWith_eq_instr_iff]
  have hplay : i ≠ .play := by simpa [Instr.wellFormed] using hi
  by_cases hbrk : i = .brk
  · subst hbrk
    exact .brk (classifyPrimary_opc he .brk) rest
  · obtain ⟨hfplay, hfbrk, hrow⟩ := Laws.Encoded.all i hplay hbrk
    exact reads_encoded_form he hfbrk hfplay hrow rest

/-! ## The length of an instruction -/

theorem mem_rows_of_classifySub {m : Family} {fc : FamilyCode} {s : Byte} {r : Row} (h : classifySub m fc s = .form r) :
    r ∈ m.rows := by
  unfold classifySub at h
  split at h
  case h_1 p hp =>
    cases h
    have hmem : p ∈ m.rows.zip fc.codes := List.mem_of_mem_filter (hp ▸ List.mem_singleton_self p)
    exact (List.of_mem_zip hmem).1
  case h_2 => split at h <;> cases h

/-- Reading a form uses the bytes of the form only (R110, R133). -/
theorem readFields_take_of_mem {m : Family} {r : Row} (hr : r ∈ m.rows) {s : Byte} {bs : List Byte} {f : Fields}
    (hf : readFields r s bs = some f) :
    r.length - 2 ≤ bs.length ∧ ∀ rest, readFields r s (bs.take (r.length - 2) ++ rest) = some f := by
  have hbytes : 2 ≤ r.fmt.bytes := by
    cases hfmt : r.fmt with
    | p => exact absurd hfmt (fmt_ne_p hr)
    | s5 | m2 | m3 | f2 => simp [Format.bytes]
  exact readFields_take hbytes hf

/-- Settles O2, by the ways an instruction is read; a form has 2 to 13 bytes and its fields come from those alone. -/
theorem decodeReadsItsLength : Obligations.DecodeReadsItsLength := by
  intro e bs i n h
  simp only [decodeWith_eq_instr_iff] at h ⊢
  cases h with
  | brk hop bs => exact ⟨by simp, by simp, by simp, fun rest => .brk hop rest⟩
  | play hop s bs => exact ⟨by simp, by simp, by simp, fun rest => .play hop s rest⟩
  | @form op s m fc r f bs hop hbrk hplay hsub hf =>
    have hr := mem_rows_of_classifySub hsub
    obtain ⟨hmin, hmax⟩ := Family.row_length hr
    obtain ⟨hcover, hprefix⟩ := readFields_take_of_mem hr hf
    refine ⟨by omega, hmax, by simp only [List.length_cons]; omega, fun rest => ?_⟩
    have htake : (op :: s :: bs).take r.length = op :: s :: bs.take (r.length - 2) := by
      obtain ⟨k, hk⟩ := Nat.exists_eq_add_of_le' hmin
      simp [hk]
    rw [htake]
    exact .form hop hbrk hplay hsub (hprefix rest)

/-! ## The mixed register byte -/

/-- The mask `0x1F` keeps the low five bits of a byte. -/
theorem and_low5 (x : Byte) : x &&& 0x1F#8 = (x.extractLsb' 0 5).setWidth 8 := by
  apply BitVec.eq_of_toNat_eq
  have hmask : x.toNat &&& 31 = x.toNat % 32 := Nat.and_two_pow_sub_one_eq_mod x.toNat 5
  simp [hmask]
  omega

/-- The low two bits of the sub-opcode above the high three of the next byte: the shifts of R113 place the same bits. -/
theorem mixedA_setWidth (s b2 : Byte) : (mixedA s b2).setWidth 8 = ((s <<< 3) &&& 0x1F#8) ||| (b2 >>> 5) := by
  rw [and_low5]
  ext k hk
  simp only [mixedA, BitVec.getElem_or, BitVec.getElem_setWidth, BitVec.getLsbD_append, BitVec.getLsbD_extractLsb',
    BitVec.getElem_ushiftRight, BitVec.getLsbD_shiftLeft]
  by_cases hlow : k < 3
  · simp [hlow]
  · have hpast : b2.getLsbD (5 + k) = false := BitVec.getLsbD_of_ge b2 _ (by omega)
    simp [hlow, hpast, hk, Nat.lt_succ_iff]

theorem mixedB_setWidth (b2 : Byte) : (mixedB b2).setWidth 8 = b2 &&& 0x1F#8 := (and_low5 b2).symm

/-- Settles O3: the formula with shifts and masks for every pair of bytes, and the worked example by evaluation. -/
theorem mixedRegisterByte : Obligations.MixedRegisterByte :=
  ⟨fun s b2 => ⟨mixedA_setWidth s b2, rfl, mixedB_setWidth b2, rfl⟩, rfl, rfl⟩

/-! ## Words written out -/

/-- Settles O4: the decoder evaluates on each word. -/
theorem decodeWords : Obligations.DecodeWords := ⟨rfl, rfl, rfl, rfl, rfl, rfl, rfl⟩

end Sys2Proof.Proofs
end

section
/-! The step (20_memory.md R90, R91; 40_dispatch.md R160 to R166): what the window at `IPO` holds, when the decoder needs more
bytes than it was given, and what a step does with each answer of the decoder. -/

namespace Sys2Proof.Proofs

open Sys2Proof.Machine

/-! ## Fetching -/

theorem fetchByte_outOfRange {m : List Host.Cell} {ip : Word} (h : memSize ≤ ip.toNat) :
    fetchByte m ip = .error .fetchOutOfRange :=
  if_neg (Nat.not_lt.mpr h)

theorem fetchByte_undefined {m : List Host.Cell} {ip : Word} (h : ip.toNat < memSize) (hnone : Store.get m ip.toNat = none) :
    fetchByte m ip = .error .readUndefined := by
  rw [fetchByte, if_pos h, hnone]

theorem fetchWindow_ok {m : List Host.Cell} {ip : Word} {b : Byte} (h : fetchByte m ip = .ok b) (n : Nat) :
    fetchWindow m (n + 1) ip = (b :: (fetchWindow m n (ip + 1)).1, (fetchWindow m n (ip + 1)).2) := by
  rw [fetchWindow, h]

theorem fetchWindow_error {m : List Host.Cell} {ip : Word} {f : Fault} (h : fetchByte m ip = .error f) (n : Nat) :
    fetchWindow m (n + 1) ip = ([], f) := by
  rw [fetchWindow, h]

/-- The `k + 1`-th byte from `ip` is the `k`-th from the byte after it. -/
theorem ip_add_succ (ip : Word) (k : Nat) : ip + BitVec.ofNat 32 (k + 1) = ip + 1 + BitVec.ofNat 32 k := by
  rw [Nat.add_comm, BitVec.ofNat_add, ← BitVec.add_assoc]
  rfl

/-- A window is the bytes up to the first that cannot be fetched, with the fault of that fetch. -/
theorem fetchWindow_stops {m : List Host.Cell} {ip : Word} {bs : List Byte} {f : Fault} {n : Nat}
    (hbytes : ∀ k (h : k < bs.length), fetchByte m (ip + BitVec.ofNat 32 k) = .ok bs[k])
    (hstop : fetchByte m (ip + BitVec.ofNat 32 bs.length) = .error f) (hn : bs.length < n) : fetchWindow m n ip = (bs, f) := by
  obtain ⟨n, rfl⟩ := Nat.exists_eq_succ_of_ne_zero (Nat.ne_zero_of_lt hn)
  induction bs generalizing ip n with
  | nil => exact fetchWindow_error (by simpa using hstop) n
  | cons b bs ih =>
    have hfirst : fetchByte m ip = .ok b := by
      rw [← BitVec.add_zero ip]
      exact hbytes 0 (Nat.succ_pos _)
    obtain ⟨n, rfl⟩ := Nat.exists_eq_succ_of_ne_zero (n := n) (by simp at hn; omega)
    have hrest : fetchWindow m (n + 1) (ip + 1) = (bs, f) := by
      refine ih (fun k hk => ?_) ?_ n (by simpa using hn)
      · rw [← ip_add_succ]
        exact hbytes (k + 1) (by simpa using hk)
      · rw [← ip_add_succ]
        exact hstop
    rw [fetchWindow_ok hfirst, hrest]

theorem window_first {s : State} {op : Byte} (h : fetchByte s.mem s.ipo = .ok op) : ∃ bs, s.window.1 = op :: bs :=
  ⟨_, congrArg Prod.fst (fetchWindow_ok h 12)⟩

theorem window_second {s : State} {op sub : Byte} (h : fetchByte s.mem s.ipo = .ok op)
    (hsub : fetchByte s.mem (s.ipo + 1) = .ok sub) : ∃ bs, s.window.1 = op :: sub :: bs := by
  refine ⟨(fetchWindow s.mem 11 (s.ipo + 1 + 1)).1, ?_⟩
  rw [State.window, fetchWindow_ok h, fetchWindow_ok hsub]

/-! ## When the decoder needs more bytes -/

theorem readTrail_eq_none {ns : List Nat} {bs : List Byte} (h : readTrail ns bs = none) : bs.length < ns.sum := by
  induction ns generalizing bs with
  | nil => cases h
  | cons n ns ih =>
    rw [List.sum_cons]
    rw [readTrail] at h
    split at h
    case isTrue hshort => omega
    case isFalse =>
      have hrest := ih (Option.map_eq_none_iff.mp h)
      rw [List.length_drop] at hrest
      omega

theorem readFormat_eq_none {fmt : Format} {s : Byte} {bs : List Byte} (h : readFormat fmt s bs = none) :
    bs.length + 2 < fmt.bytes := by
  cases fmt with
  | p | s5 => cases h
  | m2 | f2 =>
    cases bs with
    | nil => decide
    | cons b bs => cases h
  | m3 =>
    match bs, h with
    | [], _ => decide
    | [_], _ => simp [Format.bytes]

/-- Every form has a sub-opcode (30_encoding.md R115). -/
theorem two_le_fmt_bytes {m : Family} {r : Row} (hr : r ∈ m.rows) : 2 ≤ r.fmt.bytes := by
  cases hfmt : r.fmt with
  | p => exact absurd hfmt (fmt_ne_p hr)
  | s5 | m2 | m3 | f2 => simp [Format.bytes]

theorem readFields_eq_none {r : Row} (hr : 2 ≤ r.fmt.bytes) {s : Byte} {bs : List Byte} (h : readFields r s bs = none) :
    bs.length + 2 < r.length := by
  rw [Row.length]
  rw [readFields] at h
  split at h
  case h_1 hfmt =>
    have := readFormat_eq_none hfmt
    omega
  case h_2 f rest hfmt =>
    obtain ⟨-, hrest, -⟩ := readFormat_take hfmt
    have htrail := readTrail_eq_none (Option.map_eq_none_iff.mp h)
    rw [hrest, List.length_drop] at htrail
    omega

theorem readFields_of_short {e : Encoding} {op s : Byte} {m : Family} {fc : FamilyCode} {r : Row}
    (hop : classifyPrimary e op = .family m fc) (hbrk : m ≠ .brk) (hplay : m ≠ .play) (hsub : classifySub m fc s = .form r)
    {bs : List Byte} (h : decodeWith e (op :: s :: bs) = .short) : readFields r s bs = none := by
  cases hf : readFields r s bs with
  | none => rfl
  | some f => rw [decodeWith_eq_instr_iff.mpr (.form hop hbrk hplay hsub hf)] at h; cases h

theorem decodeWith_subMiss {e : Encoding} {op s : Byte} {m : Family} {fc : FamilyCode}
    (hop : classifyPrimary e op = .family m fc) (hbrk : m ≠ .brk) (hplay : m ≠ .play) (hsub : classifySub m fc s = .miss)
    (bs : List Byte) : decodeWith e (op :: s :: bs) = .miss 2 := by
  rw [decodeWith_family hop hbrk hplay, hsub]

theorem decodeWith_subUnknown {e : Encoding} {op s : Byte} {m : Family} {fc : FamilyCode}
    (hop : classifyPrimary e op = .family m fc) (hbrk : m ≠ .brk) (hplay : m ≠ .play) (hsub : classifySub m fc s = .unknown)
    (bs : List Byte) : decodeWith e (op :: s :: bs) = .unknown := by
  rw [decodeWith_family hop hbrk hplay, hsub]

/-- Bytes that do not suffice are fewer than the longest instruction has (30_encoding.md R110), so the window is long enough
to hold them and the byte that could not be fetched. -/
theorem length_lt_of_short {e : Encoding} {bs : List Byte} (h : decodeWith e bs = .short) : bs.length < maxLength := by
  match bs, h with
  | [], _ => decide
  | [_], _ => simp
  | op :: s :: bs, h =>
    cases hop : classifyPrimary e op with
    | miss => rw [decodeWith_miss hop] at h; cases h
    | unknown => rw [decodeWith_unknown hop] at h; cases h
    | family m fc =>
      by_cases hbrk : m = .brk
      · subst hbrk; rw [decodeWith_brk hop] at h; cases h
      by_cases hplay : m = .play
      · subst hplay; rw [decodeWith_play hop] at h; cases h
      cases hsub : classifySub m fc s with
      | miss => rw [decodeWith_subMiss hop hbrk hplay hsub] at h; cases h
      | unknown => rw [decodeWith_subUnknown hop hbrk hplay hsub] at h; cases h
      | form r =>
        have hr := mem_rows_of_classifySub hsub
        have hfew := readFields_eq_none (two_le_fmt_bytes hr) (readFields_of_short hop hbrk hplay hsub h)
        have hlong := (Family.row_length hr).2
        exact Nat.lt_of_lt_of_le hfew hlong

/-! ## The step, by the decoder's answer -/

theorem step_instr {s : State} (hrun : s.running = true) {i : Instr} {n : Nat}
    (h : decodeWith s.params.encoding s.window.1 = .instr i n) : step s = exec i (s.advance n) := by
  rw [step, if_pos hrun, h]

theorem step_miss {s : State} (hrun : s.running = true) {n : Nat} (h : decodeWith s.params.encoding s.window.1 = .miss n) :
    step s = .next (s.advance n) := by
  rw [step, if_pos hrun, h]

theorem step_unknown {s : State} (hrun : s.running = true) (h : decodeWith s.params.encoding s.window.1 = .unknown) :
    step s = .refused .unknownEncoding := by
  rw [step, if_pos hrun, h]

theorem step_short {s : State} (hrun : s.running = true) (h : decodeWith s.params.encoding s.window.1 = .short) :
    step s = .fault s.window.2 := by
  rw [step, if_pos hrun, h]

/-- The first byte that cannot be fetched, where the bytes before it do not suffice, ends the step with its fault
(20_memory.md R91). -/
theorem step_fetchFault {s : State} (hrun : s.running = true) {bs : List Byte} {f : Fault}
    (hbytes : ∀ k (h : k < bs.length), fetchByte s.mem (s.ipo + BitVec.ofNat 32 k) = .ok bs[k])
    (hshort : decodeWith s.params.encoding bs = .short)
    (hstop : fetchByte s.mem (s.ipo + BitVec.ofNat 32 bs.length) = .error f) : step s = .fault f := by
  have hwindow : s.window = (bs, f) := fetchWindow_stops hbytes hstop (length_lt_of_short hshort)
  rw [step_short hrun (by rw [hwindow]; exact hshort), hwindow]

/-- Settles O5: the state with `IPO` past the instruction is `State.advance`. -/
theorem stepRunsDecoded : Obligations.StepRunsDecoded :=
  fun _ _ _ hrun hdecode => step_instr hrun hdecode

/-- Settles O6: a fetch that stops the window faults when the decoder needs the byte, and the window begins with the primary
byte and the sub-opcode where these can be fetched. -/
theorem stepWithoutInstruction : Obligations.StepWithoutInstruction := by
  intro s hrun
  refine ⟨fun bs hbytes hshort => ⟨fun hpast => ?past, fun hin hundef => ?undefined⟩,
    fun op hop => ⟨fun hclass => ?miss, fun hclass => ?unknown, fun m fc sub hclass hbrk hplay hsub => ?sub⟩⟩
  case past => exact step_fetchFault hrun hbytes hshort (fetchByte_outOfRange hpast)
  case undefined => exact step_fetchFault hrun hbytes hshort (fetchByte_undefined hin hundef)
  case miss =>
    obtain ⟨bs, hwindow⟩ := window_first hop
    exact step_miss hrun (by rw [hwindow, decodeWith_miss hclass])
  case unknown =>
    obtain ⟨bs, hwindow⟩ := window_first hop
    exact step_unknown hrun (by rw [hwindow, decodeWith_unknown hclass])
  case sub =>
    obtain ⟨bs, hwindow⟩ := window_second hop hsub
    exact ⟨fun hmiss => step_miss hrun (by rw [hwindow, decodeWith_subMiss hclass hbrk hplay hmiss]),
      fun hunknown => step_unknown hrun (by rw [hwindow, decodeWith_subUnknown hclass hbrk hplay hunknown])⟩

end Sys2Proof.Proofs
end

section
/-! What every form of a family runs: the family's shared operation, on the operands its row of the form table names
(30_encoding.md R120 to R127). A property of all forms of a family is proved of whatever runs as that operation. -/

namespace Sys2Proof.Proofs

open Sys2Proof.Machine Sys2Proof.Certificates

/-- Every form of a table of binary shapes runs as `op`: what holds of whatever does holds of the whole table. -/
def BinaryRun (forms : ((w : Width) → Place → Source w → Instr → Prop) → Prop)
    (op : (w : Width) → Place → Source w → State → Out) : Prop :=
  ∀ {P : (w : Width) → Place → Source w → Instr → Prop},
    (∀ {w dst src i}, exec i = op w dst src → P w dst src i) → forms P

theorem andForms_run : BinaryRun andForms andOp := by
  intro P h
  unfold andForms BinaryForms
  and_intros <;> exact fun _ _ => h rfl

theorem orForms_run : BinaryRun orForms orOp := by
  intro P h
  unfold orForms BinaryForms
  and_intros <;> exact fun _ _ => h rfl

theorem xorForms_run : BinaryRun xorForms xorOp := by
  intro P h
  unfold xorForms BinaryForms
  and_intros <;> exact fun _ _ => h rfl

theorem norForms_run : BinaryRun norForms norOp := by
  intro P h
  unfold norForms BinaryForms
  and_intros <;> exact fun _ _ => h rfl

theorem minForms_run : BinaryRun minForms minOp := by
  intro P h
  unfold minForms BinaryForms
  and_intros <;> exact fun _ _ => h rfl

theorem maxForms_run : BinaryRun maxForms maxOp := by
  intro P h
  unfold maxForms BinaryForms
  and_intros <;> exact fun _ _ => h rfl

theorem scpForms_run : BinaryRun scpForms scpOp := by
  intro P h
  unfold scpForms BinaryForms
  and_intros <;> exact fun _ _ => h rfl

/-- Every form of a table of one-operand shapes runs as `op`: what holds of whatever does holds of the whole table. -/
def OneOperandRun (forms : (Width → Place → Instr → Prop) → Prop)
    (op : Width → Place → State → Out) : Prop :=
  ∀ {P : Width → Place → Instr → Prop},
    (∀ {w dst i}, exec i = op w dst → P w dst i) → forms P

theorem incForms_run : OneOperandRun incForms incOp := by
  intro P h
  unfold incForms OneOperandForms
  and_intros <;> exact fun _ => h rfl

theorem decForms_run : OneOperandRun decForms decOp := by
  intro P h
  unfold decForms OneOperandForms
  and_intros <;> exact fun _ => h rfl

/-- Every form of a table of shift shapes runs as `op`: what holds of whatever does holds of the whole table. -/
def ShiftRun (forms : (Width → RegIx → Source .w8 → Instr → Prop) → Prop)
    (op : Width → RegIx → Source .w8 → State → Out) : Prop :=
  ∀ {P : Width → RegIx → Source .w8 → Instr → Prop},
    (∀ {w a amount i}, exec i = op w a amount → P w a amount i) → forms P

theorem slForms_run : ShiftRun slForms slOp := by
  intro P h
  unfold slForms ShiftForms
  and_intros <;> exact fun _ _ => h rfl

theorem srForms_run : ShiftRun srForms srOp := by
  intro P h
  unfold srForms ShiftForms
  and_intros <;> exact fun _ _ => h rfl

theorem rlForms_run : ShiftRun rlForms rlOp := by
  intro P h
  unfold rlForms ShiftForms
  and_intros <;> exact fun _ _ => h rfl

theorem rrForms_run : ShiftRun rrForms rrOp := by
  intro P h
  unfold rrForms ShiftForms
  and_intros <;> exact fun _ _ => h rfl

theorem setForms_run : ShiftRun setForms setOp := by
  intro P h
  unfold setForms ShiftForms
  and_intros <;> exact fun _ _ => h rfl

theorem resForms_run : ShiftRun resForms resOp := by
  intro P h
  unfold resForms ShiftForms
  and_intros <;> exact fun _ _ => h rfl

theorem bitForms_run : ShiftRun bitForms bitOp := by
  intro P h
  unfold bitForms ShiftForms
  and_intros <;> exact fun _ _ => h rfl

/-- Every form of a table of bit-field shapes runs as `op`: what holds of whatever does holds of the whole table. -/
def BitFieldRun (forms : (Width → RegIx → RegIx → Source .w8 → Instr → Prop) → Prop)
    (op : Width → RegIx → RegIx → Source .w8 → State → Out) : Prop :=
  ∀ {P : Width → RegIx → RegIx → Source .w8 → Instr → Prop},
    (∀ {w a b offset i}, exec i = op w a b offset → P w a b offset i) → forms P

theorem getbitsForms_run : BitFieldRun getbitsForms getbitsOp := by
  intro P h
  unfold getbitsForms BitFieldForms
  and_intros <;> exact fun _ _ _ => h rfl

theorem setbitsForms_run : BitFieldRun setbitsForms setbitsOp := by
  intro P h
  unfold setbitsForms BitFieldForms
  and_intros <;> exact fun _ _ _ => h rfl

/-- Every form of a table of float shapes runs as `op`: what holds of whatever does holds of the whole table. -/
def FloatRun (forms : (FloatPlace → FloatPlace → Instr → Prop) → Prop)
    (op : FloatPlace → FloatPlace → State → Out) : Prop :=
  ∀ {P : FloatPlace → FloatPlace → Instr → Prop},
    (∀ {dst src i}, exec i = op dst src → P dst src i) → forms P

theorem sqrForms_run : FloatRun sqrForms sqrOp := by
  intro P h
  unfold sqrForms FloatForms
  and_intros <;> exact fun _ _ => h rfl

theorem cbrForms_run : FloatRun cbrForms cbrOp := by
  intro P h
  unfold cbrForms FloatForms
  and_intros <;> exact fun _ _ => h rfl

theorem powForms_run : FloatRun powForms powOp := by
  intro P h
  unfold powForms FloatForms
  and_intros <;> exact fun _ _ => h rfl

theorem sinForms_run : FloatRun sinForms sinOp := by
  intro P h
  unfold sinForms FloatForms
  and_intros <;> exact fun _ _ => h rfl

theorem floorForms_run : FloatRun floorForms floorOp := by
  intro P h
  unfold floorForms FloatForms
  and_intros <;> exact fun _ _ => h rfl

theorem roundForms_run : FloatRun roundForms roundOp := by
  intro P h
  unfold roundForms FloatForms
  and_intros <;> exact fun _ _ => h rfl

theorem memcForms_run {P : Source .w24 → Source .w24 → Source .w24 → Instr → Prop}
    (h : ∀ {src dst len i}, exec i = memcOp src dst len → P src dst len i) : memcForms P := by
  unfold memcForms
  and_intros <;> exact fun _ _ _ => h rfl

theorem memfForms_run {P : Source .w8 → Source .w24 → Source .w24 → Instr → Prop}
    (h : ∀ {val addr len i}, exec i = memfOp val addr len → P val addr len i) : memfForms P := by
  unfold memfForms
  and_intros <;> exact fun _ _ _ => h rfl

end Sys2Proof.Proofs
end

section
/-! The order of operand reads (60_exceptions.md R429 and the family rules): the reads of each shared operation, in their
order, come before everything else it does, so the first that cannot be answered is the fault of the step. -/

namespace Sys2Proof.Proofs

open Sys2Proof.Machine Sys2Proof.Certificates

/-! ## Reads that come first -/

/-- Where the reads `p` fault, the operation `q` ends in their fault. -/
def Precedes {α : Type} (p : Except Fault Unit) (q : Except Fault α) : Prop := ∀ e, p = .error e → q = .error e

theorem eq_error_of_discard {α : Type} {x : Except Fault α} {e : Fault} (h : discard x = .error e) : x = .error e := by
  cases x with
  | error f => cases h; rfl
  | ok a => cases h

/-- The last read of a list, its value not needed by the list. -/
theorem Precedes.last {α β : Type} {x : Except Fault α} {k : α → Except Fault β} : Precedes (discard x) (x >>= k) :=
  fun e h => by rw [eq_error_of_discard h, bind_error]

/-- A read whose value the later ones need. -/
theorem Precedes.bind {α β : Type} {x : Except Fault α} {p : α → Except Fault Unit} {k : α → Except Fault β}
    (h : ∀ a, Precedes (p a) (k a)) : Precedes (x >>= p) (x >>= k) := by
  intro e he
  cases x with
  | error f => cases he; rfl
  | ok a => exact h a e he

/-- A read whose value the later ones do not need. -/
theorem Precedes.next {α β : Type} {x : Except Fault α} {p : Except Fault Unit} {k : α → Except Fault β}
    (h : ∀ a, Precedes p (k a)) : Precedes (do discard x; p) (x >>= k) := by
  intro e he
  cases x with
  | error f => cases he; rfl
  | ok a => exact h a e he

/-- An immediate is no read. -/
theorem Precedes.imm {α β : Type} {a : α} {p : Except Fault Unit} {k : α → Except Fault β} (h : Precedes p (k a)) :
    Precedes p (.ok a >>= k) := h

/-- A destination register that is only written must exist (10_state.md R32), whatever else of the state has changed. -/
theorem Precedes.write {α : Type} {w : Width} {a : RegIx} {v : BitVec w.bits} {s t : State} (hparams : t.params = s.params)
    {k : State → Except Fault α} : Precedes (checkReg a s) (writeReg w a v t >>= k) := by
  intro e he
  have hcheck : checkReg a t = .error e := by rw [checkReg, hparams]; exact he
  rw [writeReg, hcheck]
  rfl

/-- The step ends with the fault of the reads that come first. -/
theorem faultsAs_of_precedes {reads : State → Except Fault Unit} {run : State → Except Fault State} {i : Instr}
    (hrun : exec i = fun s => finish (run s)) (hreads : ∀ s, Precedes (reads s) (run s)) : FaultsAs reads i := by
  intro s e he
  rw [hrun]
  exact congrArg finish (hreads s e he)

theorem faultsAs_first {α : Type} {x : State → Except Fault α} {k : State → α → Except Fault State} {i : Instr}
    (hrun : exec i = fun s => finish (x s >>= k s)) : FaultsAs (fun s => discard (x s)) i :=
  faultsAs_of_precedes hrun fun _ => .last

/-! ## The integer families -/

theorem readsTwo_of_binary {w : Width} {f : BitVec w.bits → BitVec w.bits → BitVec w.bits} {dst : Place} {src : Source w}
    {i : Instr} (hrun : exec i = fun s => finish (binary w f dst src s)) : ReadsTwo w dst src i :=
  faultsAs_of_precedes hrun fun _ => .next fun _ => .last

theorem readsTwo_of_scp {w : Width} {dst : Place} {src : Source w} {i : Instr} (hrun : exec i = scpOp w dst src) :
    ReadsTwo w dst src i :=
  faultsAs_of_precedes hrun fun _ => .next fun _ => .last

theorem readsOne_of_modify {w : Width} {f : BitVec w.bits → BitVec w.bits} {dst : Place} {i : Instr}
    (hrun : exec i = fun s => finish (modify w f dst s)) : ReadsOne w dst i :=
  faultsAs_first hrun

theorem readsTarget_of_shiftBy {w : Width} {f : BitVec w.bits → Nat → Option (BitVec w.bits)} {a : RegIx} {n : Source .w8}
    {i : Instr} (hrun : exec i = fun s => finish (shiftBy w f a n s)) : ReadsTarget w a n i :=
  faultsAs_of_precedes hrun fun _ => .next fun _ => .last

theorem readsTarget_of_bit {w : Width} {a : RegIx} {n : Source .w8} {i : Instr} (hrun : exec i = bitOp w a n) :
    ReadsTarget w a n i :=
  faultsAs_of_precedes hrun fun _ => .next fun _ => .last

theorem readsField_of_getbits {w : Width} {a b : RegIx} {offset : Source .w8} {i : Instr}
    (hrun : exec i = getbitsOp w a b offset) : ReadsField w a b offset i :=
  faultsAs_of_precedes hrun fun _ => .bind fun _ => .bind fun _ => .next fun _ => .write rfl

theorem readsValue_of_setbits {w : Width} {a b : RegIx} {offset : Source .w8} {i : Instr}
    (hrun : exec i = setbitsOp w a b offset) : ReadsValue w a b offset i :=
  faultsAs_of_precedes hrun fun _ => .next fun _ => .next fun _ => .last

theorem pickFloat_reads {w : Width} {pick : Nat → Nat → Nat} {a : RegIx} {fb : FloatIx} {i : Instr}
    (hrun : exec i = fun s => finish (pickFloat w pick a fb s)) :
    FaultsAs (fun s => do discard (readReg w a s); discard (readFloatReg fb s)) i :=
  faultsAs_of_precedes hrun fun _ => .next fun _ => .last

theorem readsFloats_of_binaryFloat {f : Word → Word → Word} {fa fb : FloatIx} {i : Instr}
    (hrun : exec i = fun s => finish (binaryFloat f fa fb s)) : ReadsFloats (.freg fa) (.freg fb) i :=
  faultsAs_of_precedes hrun fun _ => .next fun _ => .last

/-! ## The float families -/

theorem writeFloat_address_error {m : MemRef} {s : State} {e : Fault} (h : m.address s = .error e) (r : Word) :
    writeFloat (.mem m) r s = .error e := by
  rw [writeFloat, h, bind_error]

theorem writeFloat_outOfRange {m : MemRef} {s : State} {a : Addr} (ha : m.address s = .ok a) (hpast : memSize < a.toNat + 4)
    (r : Word) : writeFloat (.mem m) r s = .error .memOutOfRange := by
  rw [writeFloat, ha, bind_ok, writeMem_error (w := .w32) r hpast, bind_error]

theorem writeFloat_noRegister {w : Width} {x : RegIx} {s : State} {r : Word} {n : Nat} (hfits : FitsUnsigned w r n)
    (hx : ¬ s.HasReg x) : writeFloat (.ireg w x) r s = .error .regIndexOutOfRange := by
  simp only [writeFloat, truncToWidth_eq_some hfits, writeReg_error hx, bind_error]

/-- A unary float operation whose input can be read ends as the write of its result does. -/
theorem floatUnary_of_read {f : Word → Word} {dst src : FloatPlace} {s : State} {x : Word} (hx : readFloat src s = .ok x) :
    floatUnary f dst src s = finish (writeFloat dst (f x) s) := by
  rw [floatUnary, hx, bind_ok]

/-- The input is read first; then the destination faults as the write to it does (44_float.md R321, R323). -/
theorem readsFloat_of_unary {f : Word → Word} {dst src : FloatPlace} {i : Instr} (hrun : exec i = floatUnary f dst src) :
    ReadsFloat f dst src i := by
  refine ⟨faultsAs_first hrun, fun s x hx => ⟨?memory, ?register⟩⟩
  case memory =>
    rintro m rfl
    rw [hrun, floatUnary_of_read hx]
    exact ⟨fun e he => congrArg finish (writeFloat_address_error he (f x)),
      fun a ha hpast => congrArg finish (writeFloat_outOfRange ha hpast (f x))⟩
  case register =>
    rintro w r n rfl hfits hr
    rw [hrun, floatUnary_of_read hx]
    exact congrArg finish (writeFloat_noRegister hfits hr)

theorem readsFloats_of_pow {dst src : FloatPlace} {i : Instr} (hrun : exec i = powOp dst src) : ReadsFloats dst src i :=
  faultsAs_of_precedes hrun fun _ => .next fun _ => .last

/-! ## Bulk memory and the rest -/

theorem memc_reads {src dst len : Source .w24} {i : Instr} (hrun : exec i = memcOp src dst len) :
    FaultsAs (fun s => do
      discard (readSource .w24 src s); discard (readSource .w24 dst s); discard (readSource .w24 len s)) i :=
  faultsAs_of_precedes hrun fun _ => .next fun _ => .next fun _ => .last

theorem memf_reads {val : Source .w8} {addr len : Source .w24} {i : Instr} (hrun : exec i = memfOp val addr len) :
    FaultsAs (fun s => do
      discard (readSource .w8 val s); discard (readSource .w24 addr s); discard (readSource .w24 len s)) i :=
  faultsAs_of_precedes hrun fun _ => .next fun _ => .next fun _ => .last

theorem ex_reads {w : Width} {a b : RegIx} {i : Instr} (hrun : exec i = exOp w a b) :
    FaultsAs (fun s => do discard (readReg w a s); discard (readReg w b s)) i :=
  faultsAs_of_precedes hrun fun _ => .next fun _ => .last

theorem rand_reads {w : Width} {a : RegIx} {i : Instr} (hrun : exec i = randOp w a) : FaultsAs (checkReg a) i :=
  faultsAs_of_precedes hrun fun s => .write s.tick_params

/-- SMUL's destination is not accessed (46_misc_system.md R388). -/
theorem smul_reads {w : Width} {b : RegIx} {i : Instr} (hrun : exec i = smulOp w (.place (.reg b))) :
    FaultsAs (fun s => discard (readReg w b s)) i := by
  intro s e he
  rw [hrun, smulOp, readSource_place, readPlace_reg, eq_error_of_discard he]

/-- Settles O23, family by family: the forms of a family run one operation, whose reads come first. -/
theorem operandFaults : Obligations.OperandFaults := by
  refine ⟨andForms_run readsTwo_of_binary, orForms_run readsTwo_of_binary, xorForms_run readsTwo_of_binary,
    norForms_run readsTwo_of_binary, minForms_run readsTwo_of_binary, maxForms_run readsTwo_of_binary,
    scpForms_run readsTwo_of_scp, incForms_run readsOne_of_modify, decForms_run readsOne_of_modify,
    fun a => ?inv, slForms_run readsTarget_of_shiftBy, srForms_run readsTarget_of_shiftBy,
    rlForms_run readsTarget_of_shiftBy, rrForms_run readsTarget_of_shiftBy, setForms_run readsTarget_of_shiftBy,
    resForms_run readsTarget_of_shiftBy, bitForms_run readsTarget_of_bit, getbitsForms_run readsField_of_getbits,
    setbitsForms_run readsValue_of_setbits, ?minMaxFloat,
    fun fa fb => ⟨readsFloats_of_binaryFloat rfl, readsFloats_of_binaryFloat rfl⟩,
    sqrForms_run readsFloat_of_unary, cbrForms_run readsFloat_of_unary, sinForms_run readsFloat_of_unary,
    floorForms_run readsFloat_of_unary, roundForms_run readsFloat_of_unary, powForms_run readsFloats_of_pow,
    memcForms_run memc_reads, memfForms_run memf_reads, ?findByte, ?findByteReg, ?findPattern, ?findPatternReg, ?regRange, ?ex,
    fun a => ⟨rand_reads rfl, rand_reads rfl, rand_reads rfl, rand_reads rfl⟩, ?oneRegister,
    ?setvarRI, ?setvarIR, ?setvarRR, ?getvarI, ?getvarR,
    fun a b => ⟨smul_reads rfl, smul_reads rfl, smul_reads rfl, smul_reads rfl⟩, ?jpCall, ?retif⟩
  case inv => exact ⟨readsOne_of_modify rfl, readsOne_of_modify rfl, readsOne_of_modify rfl, readsOne_of_modify rfl⟩
  case minMaxFloat => and_intros <;> exact fun _ _ => pickFloat_reads rfl
  case findByte => exact fun _ _ => faultsAs_first rfl
  case findByteReg => exact fun _ _ => faultsAs_of_precedes rfl fun _ => .next fun _ => .last
  case findPattern => exact fun _ _ => faultsAs_of_precedes rfl fun _ => .imm (.next fun _ => .last)
  case findPatternReg => exact fun _ _ => faultsAs_of_precedes rfl fun _ => .bind fun _ => .next fun _ => .last
  case regRange => exact fun _ _ _ => ⟨faultsAs_first rfl, faultsAs_first rfl⟩
  case ex => and_intros <;> exact fun _ _ => ex_reads rfl
  case oneRegister => intro r; and_intros <;> exact faultsAs_first rfl
  case setvarRI => exact fun _ _ => faultsAs_first rfl
  case setvarIR => exact fun _ _ => faultsAs_of_precedes rfl fun _ => .imm .last
  case setvarRR => exact fun _ _ => faultsAs_of_precedes rfl fun _ => .next fun _ => .last
  case getvarI => exact fun _ _ => faultsAs_of_precedes rfl fun _ => .imm (.next fun _ => .write rfl)
  case getvarR => exact fun _ _ => faultsAs_of_precedes rfl fun _ => .bind fun _ => .next fun _ => .write rfl
  case jpCall => exact fun _ _ => ⟨faultsAs_first rfl, faultsAs_first rfl⟩
  case retif => exact fun _ => faultsAs_first rfl

end Sys2Proof.Proofs
end

section
/-! Memory and registers by family (O14): which families may store and which may write a register, read off `Done` as the
writers of the control state are. -/

namespace Sys2Proof.Proofs

open Sys2Proof.Machine

/-- The families that may change memory: the destinations of 41_arith_logic.md R200 and 44_float.md R321, SETBITS, the block
stores, and the bytes a graphics call leaves UNDEF (46_misc_system.md R392). -/
theorem writers_mem : writers .mem = [.and, .or, .xor, .nor, .min, .max, .inc, .dec, .setbits, .sqr, .cbr, .pow, .sin,
    .floor, .round, .memc, .memf, .stregs, .vcl, .vdl] := rfl

/-- The families that may write an integer or float register. -/
theorem writers_banks : writers .banks = [.and, .or, .xor, .nor, .min, .max, .inc, .dec, .inv, .sl, .sr, .rl, .rr, .set,
    .res, .getbits, .sqr, .cbr, .pow, .sin, .floor, .round, .find, .ldregs, .ex, .rand, .getvar] := rfl

/-- The families that leave every register. -/
abbrev bankKeepers : List Family := [.bit, .setbits, .jp, .jr, .call, .callr, .ret, .retif, .scp, .memc, .memf, .stregs,
  .banksel, .wait, .setvar, .smul, .vcl, .vdl, .brk]

theorem not_mem_writers_banks {m : Family} (hm : m ∈ bankKeepers) : m ∉ writers .banks := by
  rw [writers_banks]
  revert hm m
  decide

/-- Settles O14: the writers of memory are the families listed as storing, and no family listed as leaving the registers
is a writer of the banks. -/
theorem memoryAndRegisterWriters : Obligations.MemoryAndRegisterWriters := by
  intro i s t h hint
  exact ⟨exec_keeps h hint (f := .mem) (by simp [writers_mem]),
    fun hkeeper => exec_keeps h hint (f := .banks) (List.Subset.refl _) (not_mem_writers_banks hkeeper)⟩

end Sys2Proof.Proofs
end

section
/-! Arithmetic and logic over integer operands (41_arith_logic.md R200 to R206, R211 to R214): the bit-vector functions the
model runs are the arithmetic ones of the spec, and a form that runs the binary template or the read-modify-write does what
`Computes` or `Updates` says. -/

namespace Sys2Proof.Proofs

open Sys2Proof.Machine Sys2Proof.Certificates

/-! ## The functions -/

section Functions
variable {n : Nat} (d x : BitVec n)

/-- The complement is the difference to all ones (R204, R213). -/
theorem not_eq_ofNat_sub : ~~~d = BitVec.ofNat n (2 ^ n - 1 - d.toNat) := by
  rw [← BitVec.toNat_not, BitVec.ofNat_toNat, BitVec.setWidth_eq]

theorem minUnsigned_eq_ofNat_min : minUnsigned d x = BitVec.ofNat n (min d.toNat x.toNat) := by
  unfold minUnsigned
  split
  case isTrue h => rw [Nat.min_eq_left h, BitVec.ofNat_toNat, BitVec.setWidth_eq]
  case isFalse h => rw [Nat.min_eq_right (Nat.le_of_not_le h), BitVec.ofNat_toNat, BitVec.setWidth_eq]

theorem maxUnsigned_eq_ofNat_max : maxUnsigned d x = BitVec.ofNat n (max d.toNat x.toNat) := by
  unfold maxUnsigned
  split
  case isTrue h => rw [Nat.max_eq_left h, BitVec.ofNat_toNat, BitVec.setWidth_eq]
  case isFalse h => rw [Nat.max_eq_right (Nat.le_of_not_le h), BitVec.ofNat_toNat, BitVec.setWidth_eq]

theorem add_one_eq_ofNat : d + 1 = BitVec.ofNat n ((d.toNat + 1) % 2 ^ n) := by
  apply BitVec.eq_of_toNat_eq
  simp

theorem sub_one_eq_ofNat (hn : 0 < n) : d - 1 = BitVec.ofNat n ((d.toNat + (2 ^ n - 1)) % 2 ^ n) := by
  apply BitVec.eq_of_toNat_eq
  have hone : 1 < 2 ^ n := Nat.one_lt_two_pow (by omega)
  simp [BitVec.toNat_sub, Nat.mod_eq_of_lt hone, Nat.add_comm]

end Functions

theorem bits_pos (w : Width) : 0 < w.bits := by cases w <;> decide

/-! ## The forms -/

/-- A form that runs an operation completes where the operation answers. -/
theorem exec_eq_next_of_run {i : Instr} {run : State → Except Fault State} (hrun : exec i = fun s => finish (run s))
    {s t : State} (h : run s = .ok t) : exec i s = .next t := by
  rw [hrun]
  exact congrArg finish h

theorem computes_of_binary {w : Width} {f : BitVec w.bits → BitVec w.bits → BitVec w.bits}
    {g : (n : Nat) → BitVec n → BitVec n → BitVec n} {dst : Place} {src : Source w} {i : Instr}
    (hfg : ∀ d x, f d x = g w.bits d x) (hrun : exec i = fun s => finish (binary w f dst src s)) :
    Computes g w dst src i := by
  intro s d x hd hx
  obtain ⟨t, ht, hwrote, hflags, hunchanged⟩ := binary_completes f hd hx
  exact ⟨t, exec_eq_next_of_run hrun ht, hfg d x ▸ hwrote, hflags, hunchanged⟩

theorem updates_of_modify {w : Width} {f : BitVec w.bits → BitVec w.bits} {g : (n : Nat) → BitVec n → BitVec n}
    {dst : Place} {i : Instr} (hfg : ∀ d, f d = g w.bits d) (hrun : exec i = fun s => finish (modify w f dst s)) :
    Updates g w dst i := by
  intro s d hd
  obtain ⟨t, ht, hwrote, hflags, hunchanged⟩ := modify_completes f hd
  exact ⟨t, exec_eq_next_of_run hrun ht, hfg d ▸ hwrote, hflags, hunchanged⟩

/-- Settles O21: each family runs the binary template with its own function; NOR's is the complement of OR's. -/
theorem bitwiseResults : Obligations.BitwiseResults :=
  ⟨andForms_run (computes_of_binary fun _ _ => rfl), orForms_run (computes_of_binary fun _ _ => rfl),
    xorForms_run (computes_of_binary fun _ _ => rfl),
    norForms_run (computes_of_binary fun d x => not_eq_ofNat_sub (d ||| x))⟩

/-- Settles O22, by the binary template and the values of `minUnsigned` and `maxUnsigned`. -/
theorem minMaxResults : Obligations.MinMaxResults :=
  ⟨minForms_run (computes_of_binary minUnsigned_eq_ofNat_min), maxForms_run (computes_of_binary maxUnsigned_eq_ofNat_max)⟩

/-- Settles O26, by the read-modify-write of one operand. -/
theorem incDecResults : Obligations.IncDecResults :=
  ⟨incForms_run (updates_of_modify add_one_eq_ofNat),
    decForms_run fun {w _ _} => updates_of_modify fun d => sub_one_eq_ofNat d (bits_pos w)⟩

/-! ## INV twice -/

/-- A write to a register and the flags leaves every view that could be read back so. -/
theorem fits_of_written {w w' : Width} {a : RegIx} {v : BitVec w.bits} {s t : State} (hw : RegWritten w a v s t)
    (hu : Unchanged dataFields s t) (h : s.Fits w') : t.Fits w' := by
  obtain ⟨hbank, hcells⟩ := h
  have hsame : t.bank = s.bank := hu.2 .bank (by decide)
  refine ⟨?_, ?_⟩
  · rw [hsame, hw.others.1]; exact hbank
  · rw [hu.1]; exact hcells

/-- A form that updates a register completes there, and the result is read back, wherever a value written can be. -/
theorem read_of_updates {g : (n : Nat) → BitVec n → BitVec n} {w : Width} {a : RegIx} {i : Instr}
    (h : Updates g w (.reg a) i) {s : State} {d : BitVec w.bits} (hd : readReg w a s = .ok d) (hfits : s.Fits w) :
    ∃ t, exec i s = .next t ∧ readReg w a t = .ok (g w.bits d) ∧ t.Fits w := by
  obtain ⟨t, ht, ⟨hwritten, -⟩, -, hunchanged⟩ := h s d hd
  have hreg : t.HasReg a := (hasReg_congr hunchanged.1 a).mpr (readReg_eq_ok hd).1
  exact ⟨t, ht, readReg_of_written hwritten hreg hfits, fits_of_written hwritten hunchanged hfits⟩

/-- `2^W - 1 - D` (R213). -/
abbrev complement (n : Nat) (d : BitVec n) : BitVec n := BitVec.ofNat n (2 ^ n - 1 - d.toNat)

theorem complement_complement {n : Nat} (d : BitVec n) : complement n (complement n d) = d := by
  rw [complement, complement, ← not_eq_ofNat_sub, ← not_eq_ofNat_sub, BitVec.not_not]

theorem updates_complement {w : Width} {a : RegIx} {i : Instr} (hrun : exec i = invOp w a) :
    Updates complement w (.reg a) i :=
  updates_of_modify not_eq_ofNat_sub hrun

theorem complement_twice {w : Width} {a : RegIx} {i : Instr} (h : Updates complement w (.reg a) i) {s : State}
    {d : BitVec w.bits} (hd : readReg w a s = .ok d) (hfits : s.Fits w) :
    ∃ t u, exec i s = .next t ∧ exec i t = .next u ∧ readReg w a u = .ok d := by
  obtain ⟨t, ht, hread, hfits'⟩ := read_of_updates h hd hfits
  obtain ⟨u, hu, hback, -⟩ := read_of_updates h hread hfits'
  exact ⟨t, u, ht, hu, by rw [hback, complement_complement]⟩

/-- Settles O27: INV is a read-modify-write with the complement, which is its own inverse. -/
theorem complementResult : Obligations.ComplementResult := by
  unfold Obligations.ComplementResult
  intro P
  have form {w : Width} {inv : RegIx → Instr} (hrun : ∀ a, exec (inv a) = invOp w a) : P w inv :=
    ⟨fun a => updates_complement (hrun a), fun a _ _ hd hfits => complement_twice (updates_complement (hrun a)) hd hfits⟩
  exact ⟨form fun _ => rfl, form fun _ => rfl, form fun _ => rfl, form fun _ => rfl⟩

end Sys2Proof.Proofs
end

section
/-! MIN and MAX with a float register (41_arith_logic.md R207 to R210): what the model writes where the spec leaves a choice,
and which operand `floatChoose` answers. -/

namespace Sys2Proof.Proofs

open Sys2Proof.Machine

/-! ## A float source -/

/-- For `D` above `2^24` the draw is between the exact result and `D` (R207, log 16). -/
theorem drawnOr_cases {n : Nat} (s : State) (d t : BitVec n) :
    drawnOr s d t = t ∨ (2 ^ 24 < d.toNat ∧ drawnOr s d t = d) := by
  unfold drawnOr
  split
  case isTrue h => exact .inr ⟨of_decide_eq_true (Bool.and_eq_true_iff.mp h).1, rfl⟩
  case isFalse => exact .inl rfl

/-- Settles O24: the eight forms run `pickFloat` with `min` or `max`, and what it writes is the result or a draw. -/
theorem minMaxFloatSource : Obligations.MinMaxFloatSource := by
  unfold Obligations.MinMaxFloatSource
  intro P
  have form {pick : Nat → Nat → Nat} {w : Width} {i : RegIx → FloatIx → Instr}
      (hrun : ∀ a fb, exec (i a fb) = fun s => finish (pickFloat w pick a fb s)) : P pick w i := by
    intro a fb s d p hd hp r
    obtain ⟨t, ht, hflags, hunchanged, hnan, hnumber⟩ := pickFloat_completes pick hd hp
    exact ⟨t, exec_eq_next_of_run (hrun a fb) ht, hflags, hunchanged, hnan,
      fun hn hfits => ⟨_, (hnumber hn).1 hfits, drawnOr_cases s d (BitVec.ofNat w.bits r)⟩, fun hn => (hnumber hn).2⟩
  and_intros <;> exact form fun _ _ => rfl

/-! ## Two float registers -/

/-- A pattern that is not finite counts as more than every finite value. -/
theorem floatMag_lt_of_infinite {x y : Word} (hx : isFinite x = true) (hy : isFinite y = false) :
    floatMag x < floatMag y := by
  have hexp : floatExp y = 255 := by simpa [isFinite] using hy
  calc floatMag x < 2 ^ (24 + 253) := floatMag_lt hx
    _ = 2 ^ 23 * 2 ^ (255 - 1) := by rw [← Nat.pow_add]
    _ ≤ (2 ^ 23 + floatFrac y) * 2 ^ (255 - 1) := Nat.mul_le_mul_right _ (Nat.le_add_right _ _)
    _ = floatMag y := by rw [floatMag, hexp, if_neg (by decide)]

theorem isFinite_eq_of_floatMag_eq {x y : Word} (hm : floatMag x = floatMag y) : isFinite x = isFinite y := by
  cases hx : isFinite x <;> cases hy : isFinite y
  case false.true => exact absurd hm.symm (floatMag_lt_of_infinite hy hx).ne
  case true.false => exact absurd hm (floatMag_lt_of_infinite hx hy).ne
  all_goals rfl

/-- An infinity is its sign. -/
theorem eq_floatPack_of_infinite {x : Word} (hnan : isNaN x = false) (hinf : isFinite x = false) :
    x = floatPack x.msb 255 0 := by
  have hexp : floatExp x = 255 := by simpa [isFinite] using hinf
  have hfrac : floatFrac x = 0 := by simpa [isNaN, hexp] using hnan
  rw [← hexp, ← hfrac, floatPack_fields]

/-- A number, finite or not, is its sign and magnitude. -/
theorem eq_of_sign_of_floatMag {x y : Word} (hx : isNaN x = false) (hy : isNaN y = false) (hs : x.msb = y.msb)
    (hm : floatMag x = floatMag y) : x = y := by
  have hfin := isFinite_eq_of_floatMag_eq hm
  cases hfx : isFinite x
  case true => exact eq_of_floatMag_eq hfx (hfin ▸ hfx) hm hs
  case false => rw [eq_floatPack_of_infinite hx hfx, eq_floatPack_of_infinite hy (hfin ▸ hfx), hs]

/-- Two different patterns of one value are the two zeros. -/
theorem zeros_of_floatInt_eq {x y : Word} (hx : isNaN x = false) (hy : isNaN y = false) (hne : x ≠ y)
    (hv : floatInt x = floatInt y) : floatMag x = 0 ∧ floatMag y = 0 ∧ x.msb = !y.msb := by
  have hm : floatMag x = floatMag y := by rw [← floatInt_natAbs, hv, floatInt_natAbs]
  have hs : x.msb = !y.msb := Bool.eq_not.mpr fun hs => hne (eq_of_sign_of_floatMag hx hy hs hm)
  have hzero : floatMag y = 0 := by
    rw [floatInt_eq, floatInt_eq, hs, hm] at hv
    cases hsign : y.msb <;> simp [hsign] at hv <;> omega
  exact ⟨hm.trans hzero, hzero, hs⟩

theorem isNaN_zeroLike (p : Word) : isNaN (zeroLike p) = false := by
  simp [isNaN, zeroLike, floatFrac_floatPack]

theorem msb_zeroLike (p : Word) : (zeroLike p).msb = p.msb := msb_floatPack _ (by decide) (by decide)

theorem zeroLike_eq_of_sign {p x : Word} (hx : isNaN x = false) (hzero : floatMag x = 0) (hs : p.msb = x.msb) :
    zeroLike p = x :=
  eq_of_sign_of_floatMag (isNaN_zeroLike p) hx (by rw [msb_zeroLike, hs]) (by rw [floatMag_zeroLike, hzero])

section Choose
variable {x y : Word} (larger : Bool) (pick : Word → Word → Word) (hx : isNaN x = false) (hy : isNaN y = false)
include hx hy

theorem floatChoose_of_lt (h : floatInt x < floatInt y) : floatChoose larger pick x y = if larger then y else x := by
  have hne : x ≠ y := fun e => absurd (congrArg floatInt e) h.ne
  cases larger <;> simp [floatChoose, hx, hy, hne, h, h.ne]

theorem floatChoose_of_gt (h : floatInt y < floatInt x) : floatChoose larger pick x y = if larger then x else y := by
  have hne : x ≠ y := fun e => absurd (congrArg floatInt e) h.ne'
  cases larger <;> simp [floatChoose, hx, hy, hne, h.ne', h.le.not_gt]

/-- Equal values are one pattern or the two zeros, and a zero of either sign is one of them. -/
theorem floatChoose_of_eq (h : floatInt x = floatInt y) :
    floatChoose larger pick x y = x ∨ floatChoose larger pick x y = y := by
  by_cases hxy : x = y
  · exact .inl (by simp [floatChoose, hxy, hy])
  · have hzero : floatChoose larger pick x y = zeroLike (pick x y) := by simp [floatChoose, hx, hy, hxy, h]
    obtain ⟨hzx, hzy, hs⟩ := zeros_of_floatInt_eq hx hy hxy h
    rw [hzero]
    by_cases hp : (pick x y).msb = x.msb
    · exact .inl (zeroLike_eq_of_sign hx hzx hp)
    · exact .inr (zeroLike_eq_of_sign hy hzy (by simpa [hs] using hp))

theorem floatChoose_eq_or : floatChoose larger pick x y = x ∨ floatChoose larger pick x y = y := by
  rcases lt_trichotomy (floatInt x) (floatInt y) with h | h | h
  · rw [floatChoose_of_lt larger pick hx hy h]; cases larger <;> simp
  · exact floatChoose_of_eq larger pick hx hy h
  · rw [floatChoose_of_gt larger pick hx hy h]; cases larger <;> simp

end Choose

/-- Settles O25: the two forms run `binaryFloat` with `floatChoose`, MAX with the order of the values turned round. -/
theorem minMaxFloatRegisters : Obligations.MinMaxFloatRegisters := by
  unfold Obligations.MinMaxFloatRegisters
  intro P
  have form {i : FloatIx → FloatIx → Instr} (before : Int → Int → Prop) (larger : Bool) (pick : Word → Word → Word)
      (hrun : ∀ fa fb, exec (i fa fb) = fun s => finish (binaryFloat (floatChoose larger pick) fa fb s))
      (hfirst : ∀ {x y}, isNaN x = false → isNaN y = false → before (floatInt x) (floatInt y) →
        floatChoose larger pick x y = x)
      (hsecond : ∀ {x y}, isNaN x = false → isNaN y = false → before (floatInt y) (floatInt x) →
        floatChoose larger pick x y = y) : P before i := by
    intro fa fb s x y hx hy
    obtain ⟨t, ht, hwritten, hflags, hunchanged⟩ := binaryFloat_completes (floatChoose larger pick) hx hy
    exact ⟨t, floatChoose larger pick x y, exec_eq_next_of_run (hrun fa fb) ht, hwritten, hflags, hunchanged,
      fun hnx hny => ⟨hfirst hnx hny, hsecond hnx hny, floatChoose_eq_or larger pick hnx hny⟩⟩
  refine ⟨form (fun x y => x < y) false Config.fmin (fun _ _ => rfl) ?minFirst ?minSecond,
    form (fun x y => y < x) true Config.fmax (fun _ _ => rfl) ?maxFirst ?maxSecond⟩
  case minFirst => exact floatChoose_of_lt false _
  case minSecond => exact floatChoose_of_gt false _
  case maxFirst => exact floatChoose_of_gt true _
  case maxSecond => exact floatChoose_of_lt true _

end Sys2Proof.Proofs
end

section
/-! The bit-addressed view and the forms that work through it (42_shift_bit.md R248 to R250): what a write of a field answers,
and what GETBITS and SETBITS do once their operands are read. -/

namespace Sys2Proof.Proofs

open Sys2Proof.Machine Sys2Proof.Certificates

/-- A write of a field inside the memory answers, the field is written, and nothing but memory changes. -/
theorem bitWrite_completes {w : Width} {a : Addr} {off : Byte} (v : BitVec w.bits) {s : State}
    (hin : lastByte w a.toNat off.toNat < memSize) :
    ∃ t, bitWrite w a off v s = .ok t ∧ FieldWritten w a.toNat off.toNat v s t ∧ Effect [.mem] s t :=
  ⟨_, bitWrite_ok v hin, bitWrite_written v s, bitWrite_effect (bitWrite_ok v hin)⟩

/-- A field inside the memory whose every byte is defined is read as the value it holds. -/
theorem bitRead_completes {w : Width} {a : Addr} {off : Byte} {s : State} (hin : lastByte w a.toNat off.toNat < memSize)
    (hdefined : FieldDefined s w a.toNat off.toNat) :
    ∃ v, bitRead w a off s = .ok v ∧ FieldHolds s w a.toNat off.toNat v := by
  obtain ⟨v, hv⟩ := bitRead_ok hin hdefined
  obtain ⟨-, hholds⟩ := bitRead_holds hv
  exact ⟨v, hv, hholds⟩

/-- Settles O20: past the memory both operations fault on the block check; inside it, what a read and a write answer, and a
field written is one that can be read. -/
theorem bitFieldView : Obligations.BitFieldView := by
  intro s w a off
  refine ⟨fun hpast => ⟨bitRead_error hpast, fun v => bitWrite_error v hpast⟩,
    fun hin => ⟨bitRead_completes hin, bitRead_undefined hin, fun v => ?write⟩⟩
  case write =>
    obtain ⟨t, ht, hwritten, heffect⟩ := bitWrite_completes v hin
    exact ⟨t, ht, hwritten, heffect.unchanged, bitRead_written heffect.unchanged.1 hin hwritten⟩

/-! ## GETBITS and SETBITS -/

theorem fieldBit_congr {s t : State} (hparams : t.params = s.params) (hmem : t.mem = s.mem) (g : Nat) (b : Bool) :
    FieldBit t g b ↔ FieldBit s g b := by
  rw [fieldBit_iff, fieldBit_iff, State.byte?, State.byte?, hparams, hmem]

/-- A field stays written whatever else of the state changes afterwards. -/
theorem fieldWritten_congr {w : Width} {a off : Nat} {v : BitVec w.bits} {s t t' : State} (h : FieldWritten w a off v s t)
    (hparams : t'.params = t.params) (hmem : t'.mem = t.mem) : FieldWritten w a off v s t' := by
  have hbit := fieldBit_congr hparams hmem
  have hbyte (q : Nat) : t'.byte? q = t.byte? q := by rw [State.byte?, State.byte?, hmem]
  simpa only [FieldWritten, hbit, hbyte] using h

section Operands
variable {w : Width} {a b : RegIx} {offset : Source .w8} {s : State} {addr : Addr} {off : Byte}

/-- GETBITS with its operands read: the field, then the register, then the flags (R249). -/
theorem getbitsOp_of_reads (haddr : readReg .w24 b s = .ok addr) (hoff : readSource .w8 offset s = .ok off) :
    getbitsOp w a b offset s = finish (do
      let v ← bitRead w addr off s
      let t ← writeReg w a v s
      return t.undefFlags) := by
  rw [getbitsOp, haddr, bind_ok, hoff, bind_ok]

theorem getbitsOp_fault (haddr : readReg .w24 b s = .ok addr) (hoff : readSource .w8 offset s = .ok off) {f : Fault}
    (hread : bitRead w addr off s = .error f) : getbitsOp w a b offset s = .fault f := by
  rw [getbitsOp_of_reads haddr hoff, hread, bind_error, finish_error]

theorem getbitsOp_next (haddr : readReg .w24 b s = .ok addr) (hoff : readSource .w8 offset s = .ok off)
    {v : BitVec w.bits} (hread : bitRead w addr off s = .ok v) (ha : s.HasReg a) :
    getbitsOp w a b offset s = .next (s.setView w a v).undefFlags := by
  rw [getbitsOp_of_reads haddr hoff, hread, bind_ok, writeReg_ok ha, bind_ok, pure_eq_ok, finish_ok]

variable {v : BitVec w.bits}

/-- SETBITS with its operands read: the field, then the flags (R250). -/
theorem setbitsOp_of_reads (haddr : readReg .w24 b s = .ok addr) (hoff : readSource .w8 offset s = .ok off)
    (hv : readReg w a s = .ok v) :
    setbitsOp w a b offset s = finish (do
      let t ← bitWrite w addr off v s
      return t.undefFlags) := by
  rw [setbitsOp, haddr, bind_ok, hoff, bind_ok, hv, bind_ok]

theorem setbitsOp_fault (haddr : readReg .w24 b s = .ok addr) (hoff : readSource .w8 offset s = .ok off)
    (hv : readReg w a s = .ok v) {f : Fault} (hwrite : bitWrite w addr off v s = .error f) :
    setbitsOp w a b offset s = .fault f := by
  rw [setbitsOp_of_reads haddr hoff hv, hwrite, bind_error, finish_error]

theorem setbitsOp_next (haddr : readReg .w24 b s = .ok addr) (hoff : readSource .w8 offset s = .ok off)
    (hv : readReg w a s = .ok v) {t : State} (hwrite : bitWrite w addr off v s = .ok t) :
    setbitsOp w a b offset s = .next t.undefFlags := by
  rw [setbitsOp_of_reads haddr hoff hv, hwrite, bind_ok, pure_eq_ok, finish_ok]

end Operands

/-- Settles O32: the outcome of the read of the field is the outcome of the instruction, up to the register and the flags. -/
theorem getbitsResults : Obligations.GetbitsResults := by
  unfold Obligations.GetbitsResults
  refine getbitsForms_run fun {w a b offset i} hrun s addr off haddr hoff => ?_
  rw [hrun]
  refine ⟨fun hpast => getbitsOp_fault haddr hoff (bitRead_error hpast), fun hin => ⟨fun hundef => ?undefined,
    fun hdefined ha => ?value⟩⟩
  case undefined => exact getbitsOp_fault haddr hoff (bitRead_undefined hin hundef)
  case value =>
    obtain ⟨v, hread, hholds⟩ := bitRead_completes hin hdefined
    obtain ⟨hwritten, hflags, hunchanged⟩ := setView_undefFlags ha w v
    exact ⟨_, v, getbitsOp_next haddr hoff hread ha, hholds, hwritten, hflags, hunchanged⟩

/-- Settles O33: the field is written, and the flags that become UNDEF afterwards are no part of it. -/
theorem setbitsResults : Obligations.SetbitsResults := by
  unfold Obligations.SetbitsResults
  refine setbitsForms_run fun {w a b offset i} hrun s addr off v haddr hoff hv => ?_
  rw [hrun]
  refine ⟨fun hpast => setbitsOp_fault haddr hoff hv (bitWrite_error v hpast), fun hin => ?_⟩
  obtain ⟨t, ht, hwritten, heffect⟩ := bitWrite_completes v hin
  obtain ⟨heffect', hflags⟩ := (heffect.mono (gs := [.mem, .flag]) (by simp)).thenUndef (by simp)
  have hwritten' : FieldWritten w addr.toNat off.toNat v s t.undefFlags :=
    fieldWritten_congr hwritten t.undefFlags_params t.undefFlags_mem
  exact ⟨t.undefFlags, setbitsOp_next haddr hoff hv ht, hwritten',
    bitRead_written heffect'.unchanged.1 hin hwritten', hflags, heffect'.unchanged⟩

end Sys2Proof.Proofs
end

section
/-! Shifts, rotates and the bit operations on a register (42_shift_bit.md R240 to R247): the bit-vector functions the model runs
are the arithmetic ones of the spec below the width, and none of them but the rotates answers from the width on. -/

namespace Sys2Proof.Proofs

open Sys2Proof.Machine Sys2Proof.Certificates

/-! ## The functions -/

section Functions
variable {n : Nat} (d : BitVec n) (k : Nat)

theorem shiftLeft_eq_ofNat_mul : d <<< k = BitVec.ofNat n (d.toNat * 2 ^ k) := by
  apply BitVec.eq_of_toNat_eq
  rw [BitVec.toNat_ofNat, BitVec.toNat_shiftLeft, Nat.shiftLeft_eq]

theorem ushiftRight_eq_ofNat_div : d >>> k = BitVec.ofNat n (d.toNat / 2 ^ k) := by
  rw [← Nat.shiftRight_eq_div_pow, ← BitVec.toNat_ushiftRight, BitVec.ofNat_toNat, BitVec.setWidth_eq]

/-- The mask of one bit (R245). -/
theorem one_shiftLeft_eq_ofNat : 1#n <<< k = BitVec.ofNat n (2 ^ k) := by
  apply BitVec.eq_of_toNat_eq
  rw [BitVec.toNat_ofNat]
  exact BitVec.toNat_twoPow n k

/-- The mask of every other bit (R246). -/
theorem not_one_shiftLeft_eq_ofNat {n k : Nat} (hk : k < n) : ~~~(1#n <<< k) = BitVec.ofNat n (2 ^ n - 1 - 2 ^ k) := by
  have hlt : 2 ^ k < 2 ^ n := Nat.pow_lt_pow_right (by decide) hk
  rw [not_eq_ofNat_sub, one_shiftLeft_eq_ofNat, BitVec.toNat_ofNat, Nat.mod_eq_of_lt hlt]

theorem rotatedLeft_eq_rotateLeft : rotatedLeft d k = some (d.rotateLeft k) := rfl

theorem rotatedRight_eq_rotateRight : rotatedRight d k = some (d.rotateRight k) := rfl

end Functions

/-! ## The forms -/

/-- The functions that answer below the width only, with the value `g` (R240: UNDEF from the width on). -/
def AnswersBelow (f : (n : Nat) → BitVec n → Nat → Option (BitVec n)) (g : (n : Nat) → BitVec n → Nat → BitVec n) : Prop :=
  ∀ (n : Nat) (d : BitVec n) (k : Nat), (k < n → f n d k = some (g n d k)) ∧ (n ≤ k → f n d k = none)

/-- A function guarded by the width answers below it only. -/
theorem answersBelow_of_guard {f : (n : Nat) → BitVec n → Nat → Option (BitVec n)}
    {h g : (n : Nat) → BitVec n → Nat → BitVec n} (hf : ∀ n d k, f n d k = if k < n then some (h n d k) else none)
    (hg : ∀ {n} (d : BitVec n) {k}, k < n → h n d k = g n d k) : AnswersBelow f g := by
  intro n d k
  rw [hf]
  exact ⟨fun hk => by rw [if_pos hk, hg d hk], fun hk => if_neg (Nat.not_lt.mpr hk)⟩

theorem shifts_of_shiftBy {f : (n : Nat) → BitVec n → Nat → Option (BitVec n)} {g : (n : Nat) → BitVec n → Nat → BitVec n}
    (hfg : AnswersBelow f g) {w : Width} {a : RegIx} {amount : Source .w8} {i : Instr}
    (hrun : exec i = fun s => finish (shiftBy w (f w.bits) a amount s)) : Shifts g w a amount i := by
  intro s d k hd hk
  obtain ⟨t, ht, hvalue, hundef, hflags, hunchanged⟩ := shiftBy_completes (f w.bits) hd hk
  obtain ⟨hbelow, hfrom⟩ := hfg w.bits d k.toNat
  exact ⟨t, exec_eq_next_of_run hrun ht, fun h => hvalue _ (hbelow h), fun h => hundef (hfrom h), hflags, hunchanged⟩

theorem rotates_of_shiftBy {w : Width} {f : BitVec w.bits → Nat → Option (BitVec w.bits)}
    {g : (n : Nat) → BitVec n → Nat → BitVec n} (hfg : ∀ d k, f d k = some (g w.bits d k)) {a : RegIx} {amount : Source .w8}
    {i : Instr} (hrun : exec i = fun s => finish (shiftBy w f a amount s)) : Rotates g w a amount i := by
  intro s d k hd hk
  obtain ⟨t, ht, hvalue, -, hflags, hunchanged⟩ := shiftBy_completes f hd hk
  exact ⟨t, exec_eq_next_of_run hrun ht, hvalue _ (hfg d k.toNat), hflags, hunchanged⟩

theorem shiftedLeft_answersBelow : AnswersBelow (@shiftedLeft) fun n d k => BitVec.ofNat n (d.toNat * 2 ^ k) :=
  answersBelow_of_guard (h := fun _ d k => d <<< k) (fun _ _ _ => rfl) fun d k _ => shiftLeft_eq_ofNat_mul d k

theorem shiftedRight_answersBelow : AnswersBelow (@shiftedRight) fun n d k => BitVec.ofNat n (d.toNat / 2 ^ k) :=
  answersBelow_of_guard (h := fun _ d k => d >>> k) (fun _ _ _ => rfl) fun d k _ => ushiftRight_eq_ofNat_div d k

theorem withBitSet_answersBelow : AnswersBelow (@withBitSet) fun n d k => d ||| BitVec.ofNat n (2 ^ k) :=
  answersBelow_of_guard (h := fun n d k => d ||| 1#n <<< k) (fun _ _ _ => rfl) fun d k _ =>
    congrArg (d ||| ·) (one_shiftLeft_eq_ofNat k)

theorem withBitClear_answersBelow : AnswersBelow (@withBitClear) fun n d k => d &&& BitVec.ofNat n (2 ^ n - 1 - 2 ^ k) :=
  answersBelow_of_guard (h := fun n d k => d &&& ~~~(1#n <<< k)) (fun _ _ _ => rfl) fun d _ hk =>
    congrArg (d &&& ·) (not_one_shiftLeft_eq_ofNat hk)

/-- Settles O28, by the common part of the shifts and the values of `shiftedLeft` and `shiftedRight`. -/
theorem shiftResults : Obligations.ShiftResults :=
  ⟨slForms_run (shifts_of_shiftBy shiftedLeft_answersBelow), srForms_run (shifts_of_shiftBy shiftedRight_answersBelow)⟩

/-- Settles O29: the rotates run the common part of the shifts and answer for every amount. -/
theorem rotateResults : Obligations.RotateResults :=
  ⟨rlForms_run (rotates_of_shiftBy rotatedLeft_eq_rotateLeft), rrForms_run (rotates_of_shiftBy rotatedRight_eq_rotateRight)⟩

/-- Settles O30, by the common part of the shifts and the masks of one bit and of every other bit. -/
theorem setResResults : Obligations.SetResResults :=
  ⟨setForms_run (shifts_of_shiftBy withBitSet_answersBelow), resForms_run (shifts_of_shiftBy withBitClear_answersBelow)⟩

/-! ## BIT -/

section Bit
variable {w : Width} {a : RegIx} {amount : Source .w8} {s : State} {d : BitVec w.bits} {k : Byte}

/-- BIT with its operands read: the flags by the bit tested, if there is one (R247). -/
theorem bitOp_of_reads (hd : readReg w a s = .ok d) (hk : readSource .w8 amount s = .ok k) :
    bitOp w a amount s = .next ((testedBit d k.toNat).elim s.undefFlags s.bitFlags) := by
  rw [bitOp, hd, bind_ok, hk, bind_ok]
  cases testedBit d k.toNat <;> rfl

theorem bitOp_inside (hd : readReg w a s = .ok d) (hk : readSource .w8 amount s = .ok k) (hin : k.toNat < w.bits) :
    bitOp w a amount s = .next (s.bitFlags (d.getLsbD k.toNat)) := by
  rw [bitOp_of_reads hd hk, testedBit, if_pos hin, Option.elim_some]

theorem bitOp_outside (hd : readReg w a s = .ok d) (hk : readSource .w8 amount s = .ok k) (hout : w.bits ≤ k.toNat) :
    bitOp w a amount s = .next s.undefFlags := by
  rw [bitOp_of_reads hd hk, testedBit, if_neg (Nat.not_lt.mpr hout), Option.elim_none]

end Bit

/-- Settles O31, by whether the bit position lies in the register's width. -/
theorem bitTest : Obligations.BitTest := by
  unfold Obligations.BitTest
  refine bitForms_run fun {w a amount i} hrun s d k hd hk => ?_
  rw [hrun]
  rcases Nat.lt_or_ge k.toNat w.bits with hin | hout
  · exact ⟨_, bitOp_inside hd hk hin, s.undefFlagsBut_unchanged _ _,
      fun _ => State.undefFlagsBut_undef (Nat.le_refl _) _ _, fun h => absurd hin (Nat.not_lt.mpr h)⟩
  · exact ⟨_, bitOp_outside hd hk hout, s.undefFlags_unchanged, fun h => absurd h (Nat.not_lt.mpr hout),
      fun _ => State.undefFlags_undef (Nat.le_refl _)⟩

end Sys2Proof.Proofs
end

section
/-! Jumps, returns and the signed compare (43_control_compare.md R280 to R284, R289 to R293): JP and JR, RET and RETIF, a call
followed by RET, and the six flags of SCP. -/

namespace Sys2Proof.Proofs

open Sys2Proof.Machine Sys2Proof.Certificates

/-! ## Jumps -/

theorem exec_jpImm (addr : Addr) (s : State) : exec (.jpImm addr) s = .next (s.jump addr) := rfl

theorem exec_jpReg (r : RegIx) (s : State) :
    exec (.jpReg r) s = finish (readReg .w24 r s >>= fun t => return s.jump t) := rfl

theorem exec_jpReg_ok {r : RegIx} {s : State} {t : Addr} (h : readReg .w24 r s = .ok t) :
    exec (.jpReg r) s = .next (s.jump t) := by
  rw [exec_jpReg, h]; rfl

theorem exec_jpReg_fault {r : RegIx} {s : State} {f : Fault} (h : readReg .w24 r s = .error f) :
    exec (.jpReg r) s = .fault f := by
  rw [exec_jpReg, h]; rfl

theorem exec_jpCond (flag : FlagIx) (addr : Addr) (s : State) :
    exec (.jpCond flag addr) s = finish (readFlag flag s >>= fun c => return if c then s.jump addr else s) := rfl

theorem exec_jpCond_ok {flag : FlagIx} {s : State} {c : Bool} (h : readFlag flag s = .ok c) (addr : Addr) :
    exec (.jpCond flag addr) s = .next (if c then s.jump addr else s) := by
  rw [exec_jpCond, h]; rfl

theorem exec_jpCond_fault {flag : FlagIx} {s : State} {f : Fault} (h : readFlag flag s = .error f) (addr : Addr) :
    exec (.jpCond flag addr) s = .fault f := by
  rw [exec_jpCond, h]; rfl

theorem exec_jrRel (off : BitVec 24) (s : State) : exec (.jrRel off) s = .next (s.jumpRelative off) := rfl

/-- Settles O34: a jump writes `IPO` alone, and a target or a flag that cannot be read faults before it. -/
theorem jumpResults : Obligations.JumpResults := fun s =>
  ⟨fun addr => exec_jpImm addr s, fun _ _ ht => exec_jpReg_ok ht,
    fun _ hr => exec_jpReg_fault (readReg_error hr .w24),
    fun _ hr hu => exec_jpReg_fault (readReg_undefined hr hu),
    fun _ addr hf => exec_jpCond_ok hf addr, fun _ addr hf => exec_jpCond_ok hf addr,
    fun _ addr hu => exec_jpCond_fault (readFlag_undefined hu) addr, fun off => exec_jrRel off s⟩

/-! ## Returns -/

theorem doReturn_of_empty {s : State} (h : s.spc = 0) : s.doReturn = s.halt := if_pos h

theorem doReturn_of_pos {s : State} (h : 0 < s.spc) : s.doReturn = s.popReturn := if_neg h.ne'

/-- A pop gives `IPO` the top entry of the call stack (10_state.md R46). -/
theorem popReturn_top {s : State} (hpos : 0 < s.spc) (hdepth : s.spc ≤ s.cs.length) :
    s.cs[s.spc - 1]? = some s.popReturn.ipo := by
  have htop : s.spc - 1 < s.cs.length := by omega
  rw [State.popReturn_ipo, List.getElem?_eq_getElem htop, List.getD_eq_getElem _ _ htop]

theorem popReturn_unchanged (s : State) : Unchanged [.spc, .ipo] s s.popReturn := by
  apply Unchanged.of <;> simp

theorem popReturn_returned {s : State} (hpos : 0 < s.spc) (hdepth : s.spc ≤ s.cs.length) : Returned s s.popReturn :=
  ⟨fun _ => ⟨s.popReturn_spc, popReturn_top hpos hdepth, popReturn_unchanged s⟩, fun hempty => absurd hempty hpos.ne'⟩

/-- The underflow halt (R291) is the return from an empty stack, whatever was drawn before it. -/
theorem halt_returned {s t : State} (hempty : s.spc = 0) (h : Effect [] s t) : Returned s t.halt := by
  have hdrawn : Drawn t.halt.ipo s t.halt := (drawn_free t t.halt (by simp)).mono h.draws (Nat.le_refl _)
  have hunchanged : Unchanged [.running, .ipo] s t.halt := (h.unchanged.mono (by simp)).trans (Effect.halt t).unchanged
  exact ⟨fun hpos => absurd hempty hpos.ne', fun _ => ⟨t.halt_running, hdrawn, hunchanged⟩⟩

theorem doReturn_returned {s : State} (hdepth : s.spc ≤ s.cs.length) : Returned s s.doReturn := by
  rcases Nat.eq_zero_or_pos s.spc with hempty | hpos
  · rw [doReturn_of_empty hempty]
    exact halt_returned hempty (Effect.refl [] s)
  · rw [doReturn_of_pos hpos]
    exact popReturn_returned hpos hdepth

theorem exec_ret (s : State) : exec .ret s = .next s.doReturn := rfl

/-- Where RETIF goes when it is not taken (R290): on, or with an empty stack by a draw to the halt. -/
def notReturned (s : State) : State :=
  if s.spc = 0 then (if s.free.getLsbD 0 then s.tick.halt else s.tick) else s

theorem notReturned_of_pos {s : State} (h : 0 < s.spc) : notReturned s = s := if_neg h.ne'

theorem notReturned_of_empty {s : State} (h : s.spc = 0) :
    Unchanged [] s (notReturned s) ∨ Returned s (notReturned s) := by
  rw [notReturned, if_pos h]
  split
  · exact .inr (halt_returned h (Effect.tick s))
  · exact .inl (Effect.tick s).unchanged

theorem exec_retif (flag : FlagIx) (s : State) :
    exec (.retif flag) s = finish (readFlag flag s >>= fun c => return if c then s.doReturn else notReturned s) := rfl

theorem exec_retif_ok {flag : FlagIx} {s : State} {c : Bool} (h : readFlag flag s = .ok c) :
    exec (.retif flag) s = .next (if c then s.doReturn else notReturned s) := by
  rw [exec_retif, h]; rfl

theorem exec_retif_fault {flag : FlagIx} {s : State} {f : Fault} (h : readFlag flag s = .error f) :
    exec (.retif flag) s = .fault f := by
  rw [exec_retif, h]; rfl

/-- Settles O36: a return that is taken is `doReturn`, one that is not taken is `notReturned`. -/
theorem returnResults : Obligations.ReturnResults := by
  intro s hdepth
  have hreturned : Returned s s.doReturn := doReturn_returned hdepth
  refine ⟨⟨_, exec_ret s, hreturned⟩, fun flag hf => ⟨_, exec_retif_ok hf, hreturned⟩, fun flag hf hpos => ?notTaken,
    fun flag hf hempty => ⟨_, exec_retif_ok hf, notReturned_of_empty hempty⟩,
    fun flag hu => exec_retif_fault (readFlag_undefined hu)⟩
  case notTaken => exact (exec_retif_ok hf).trans (congrArg _ (notReturned_of_pos hpos))

/-! ## A call and then RET -/

/-- The pop after a push: only the entry that was pushed is left behind. -/
theorem popReturn_called {s : State} (h : s.spc < s.cs.length) (target : Word) :
    (called s target).popReturn = { s with cs := s.cs.set s.spc s.ipo } := by
  simp [State.popReturn, called, h]

theorem exec_ret_called {s : State} (h : s.spc < s.cs.length) (target : Word) :
    exec .ret (called s target) = .next { s with cs := s.cs.set s.spc s.ipo } := by
  rw [exec_ret, doReturn_of_pos (Nat.succ_pos s.spc), popReturn_called h]

/-- Settles O37: with room every kind of call leaves `called` of its target, and RET takes back all of it but the entry. -/
theorem callThenReturn : Obligations.CallThenReturn := by
  intro s i hroom hfull hcall
  have hto (a : Addr) : finish (callTo a s) = .next (called s (a.setWidth 32)) := by rw [callTo_ok hroom, finish_ok]
  obtain ⟨target, hcalled⟩ : ∃ target, exec i s = .next (called s target) := by
    obtain ⟨addr, rfl⟩ | ⟨r, a, ha, rfl⟩ | ⟨flag, addr, hf, rfl⟩ | ⟨off, rfl⟩ := hcall
    · exact ⟨_, (exec_callImm addr s).trans (hto addr)⟩
    · exact ⟨_, (exec_callReg_ok ha).trans (hto a)⟩
    · exact ⟨_, (exec_callCond_taken hf addr).trans (hto addr)⟩
    · exact ⟨_, exec_callrRel_ok hroom off⟩
  exact ⟨_, _, hcalled, exec_ret_called (hfull ▸ hroom) target, rfl, rfl, by apply Unchanged.of <;> simp⟩

/-! ## SCP -/

section Compare
variable (s : State) (w : Width) (d x : BitVec w.bits) (n : FlagIx)

/-- The flags of R292's table, of which SignNegative may be UNDEF. -/
theorem flagBit_compareFlags : (s.compareFlags w d x).flagBit n =
    if n = flagLessThan then decide (d.toInt < x.toInt)
    else if n = flagGreaterThan then decide (d.toInt > x.toInt)
    else if n = flagEqual then decide (d.toInt = x.toInt)
    else if n = flagOverflow then false
    else if n = flagSignNegative then (if signAgrees w d x then signedLess w d x else s.free.getLsbD 0)
    else if n = flagZero then decide (d.toInt - x.toInt = 0)
    else s.flagBit n := by
  simp only [State.flagBit, State.compareFlags, putBit_getLsbD]

theorem flagBitUndef_compareFlags : (s.compareFlags w d x).flagBitUndef n =
    if n = flagLessThan then false
    else if n = flagGreaterThan then false
    else if n = flagEqual then false
    else if n = flagOverflow then false
    else if n = flagSignNegative then !signAgrees w d x
    else if n = flagZero then false
    else s.flagBitUndef n := by
  simp only [State.flagBitUndef, State.compareFlags, putBit_getLsbD]

theorem compareFlags_unchanged : Unchanged [.flag] s (s.compareFlags w d x) := by
  apply Unchanged.of <;> simp

variable {w d x}

theorem signAgrees_iff : signAgrees w d x = true ↔ decide (d.toInt - x.toInt < 0) = (d - x).msb := beq_iff_eq

theorem flagBitUndef_compareFlags_signNegative :
    (s.compareFlags w d x).flagBitUndef flagSignNegative = !signAgrees w d x :=
  flagBitUndef_compareFlags s w d x flagSignNegative

theorem flagBit_compareFlags_signNegative (h : signAgrees w d x = true) :
    (s.compareFlags w d x).flagBit flagSignNegative = decide (d.toInt - x.toInt < 0) :=
  (flagBit_compareFlags s w d x flagSignNegative).trans (if_pos h)

theorem readFlag_compareFlags_signNegative (h : signAgrees w d x = true) :
    readFlag flagSignNegative (s.compareFlags w d x) = .ok (decide (d.toInt - x.toInt < 0)) := by
  rw [readFlag_ok (by rw [flagBitUndef_compareFlags_signNegative, h]; rfl), flagBit_compareFlags_signNegative s h]

theorem readFlag_compareFlags_signNegative_undefined (h : signAgrees w d x ≠ true) :
    readFlag flagSignNegative (s.compareFlags w d x) = .error .readUndefined :=
  readFlag_undefined (by rw [flagBitUndef_compareFlags_signNegative, Bool.eq_false_of_not_eq_true h]; rfl)

/-- A flag of the table that is never UNDEF is read as the bit it was given. -/
theorem readFlag_compareFlags {n : FlagIx} (hn : n ∈ [flagZero, flagOverflow, flagEqual, flagGreaterThan, flagLessThan]) :
    readFlag n (s.compareFlags w d x) = .ok ((s.compareFlags w d x).flagBit n) := by
  refine readFlag_ok ((flagBitUndef_compareFlags s w d x n).trans ?_)
  simp only [List.mem_cons, List.not_mem_nil, or_false] at hn
  rcases hn with rfl | rfl | rfl | rfl | rfl <;> rfl

end Compare

/-- SCP with its operands read (R293). -/
theorem scpOp_of_reads {w : Width} {first : Place} {second : Source w} {s : State} {d x : BitVec w.bits}
    (hd : readPlace w first s = .ok d) (hx : readSource w second s = .ok x) :
    scpOp w first second s = .next (s.compareFlags w d x) := by
  rw [scpOp, hd, bind_ok, hx, bind_ok, pure_eq_ok, finish_ok]

/-- Settles O38: every form leaves the flags of `compareFlags`, and SignNegative is UNDEF exactly where the signs disagree. -/
theorem compareResults : Obligations.CompareResults := by
  unfold Obligations.CompareResults
  refine scpForms_run fun {w first second i} hrun s d x hd hx => ?_
  have hread {n : FlagIx} {b : Bool} (hn : n ∈ [flagZero, flagOverflow, flagEqual, flagGreaterThan, flagLessThan])
      (hb : (s.compareFlags w d x).flagBit n = b) : readFlag n (s.compareFlags w d x) = .ok b :=
    (readFlag_compareFlags s hn).trans (congrArg _ hb)
  have hbit (n : FlagIx) := flagBit_compareFlags s w d x n
  refine ⟨s.compareFlags w d x, by rw [hrun, scpOp_of_reads hd hx], compareFlags_unchanged s w d x,
    hread (by simp) (hbit flagZero), fun h => readFlag_compareFlags_signNegative s (signAgrees_iff.mpr h),
    fun h => readFlag_compareFlags_signNegative_undefined s (mt signAgrees_iff.mp h),
    hread (by simp) (hbit flagOverflow), hread (by simp) (hbit flagEqual), hread (by simp) (hbit flagGreaterThan),
    hread (by simp) (hbit flagLessThan), compareFlags_kept s w d x⟩

end Sys2Proof.Proofs
end

section
/-! Floating point (44_float.md R320 to R330): a form that runs `floatUnary` or `powOp` does what `FloatComputes` says, what a
float form reads, and the values of `fsqrt`, `fcbrt`, `fpow`, `fsin`, `ffloor` and `fround` that a law of R324, R329 or R330
fixes. -/

namespace Sys2Proof.Proofs

open Sys2Proof.Machine Sys2Proof.Certificates

/-! ## The forms -/

theorem floatComputes_of_unary {f : Word → Word} {dst src : FloatPlace} {i : Instr} (hrun : exec i = floatUnary f dst src) :
    FloatComputes f dst src i := by
  intro s x hx hd
  rw [hrun]
  exact floatUnary_completes f hx hd

theorem floatComputes₂_of_pow {dst src : FloatPlace} {i : Instr} (hrun : exec i = powOp dst src) :
    FloatComputes₂ fpow dst src i := by
  intro s y x hy hx
  rw [hrun]
  exact powOp_completes hy hx

/-! ## Reading an input -/

theorem readFloat_ireg {w : Width} {x : RegIx} {s : State} {d : BitVec w.bits} (h : readReg w x s = .ok d) :
    readFloat (.ireg w x) s = .ok (cvtU2F w d) := by
  rw [readFloat, h, bind_ok, pure_eq_ok]

theorem readFloat_mem {m : MemRef} {s : State} {a : Addr} (h : m.address s = .ok a) :
    readFloat (.mem m) s = readMem .w32 a s := by
  rw [readFloat, h, bind_ok]

/-- Below `2^24` the conversion is exact (R322). -/
theorem cvtU2F_small {w : Width} {d : BitVec w.bits} (h : d.toNat < 2 ^ 24) :
    isFinite (cvtU2F w d) = true ∧ floatInt (cvtU2F w d) = d.toNat * 2 ^ 149 := by
  rw [cvtU2F, if_pos h]
  exact ofMag_small_getD (neg := false) h.le 0

/-- Settles O44: each kind of operand by its own read, an integer register through `cvtU2F`. -/
theorem floatConversions : Obligations.FloatConversions := fun _ =>
  ⟨fun _ => readFloatReg_ok, fun _ => readFloatReg_undefined, fun _ _ => readFloat_mem,
    fun w _ d hd => ⟨cvtU2F w d, readFloat_ireg hd, cvtU2F_small⟩⟩

/-! ## SIN -/

/-- Settles O41: `fsin` decides a zero by its magnitude. -/
theorem sineResults : Obligations.SineResults :=
  ⟨sinForms_run floatComputes_of_unary, fun _ hx => if_pos (floatInt_eq_zero.mp hx)⟩

/-! ## Signs and magnitudes -/

/-- Only at a zero does the sign bit say more than the value. -/
theorem msb_eq_decide_floatInt_neg {x : Word} (h : floatMag x ≠ 0) : x.msb = decide (floatInt x < 0) := by
  cases hs : x.msb
  case true => rw [floatInt_of_sign hs, eq_comm, decide_eq_true_eq]; omega
  case false => rw [floatInt_of_nonneg hs, eq_comm, decide_eq_false_iff_not]; omega

theorem floatInt_zeroLike (p : Word) : floatInt (zeroLike p) = 0 := floatInt_eq_zero.mpr (floatMag_zeroLike p)

/-! ## SQR and CBR -/

section Roots
variable {x r : Word} {p : Nat}

/-- A root law between values holds of their magnitudes. -/
theorem floatMag_pow_eq {k : Nat} (h : floatInt r ^ p = floatInt x * 2 ^ k) : floatMag r ^ p = floatMag x * 2 ^ k := by
  rw [← floatInt_natAbs, ← floatInt_natAbs, ← Int.natAbs_pow, h, Int.natAbs_mul, Int.natAbs_pow]
  rfl

variable (hx : isFinite x = true) (hr : isFinite r = true) (hp : 2 ≤ p)
  (hroot : floatMag r ^ p = floatMag x * floatOne ^ (p - 1))

include hx hp hroot in
/-- A square or higher root of a finite magnitude lies in the range `natRoot` searches. -/
theorem root_lt : floatMag r < 2 ^ 214 := by
  refine lt_of_pow_lt_pow_left₀ p (Nat.zero_le _) ?_
  calc floatMag r ^ p = floatMag x * (2 ^ 149) ^ (p - 1) := hroot
    _ < 2 ^ (24 + 253) * (2 ^ 149) ^ (p - 1) := Nat.mul_lt_mul_of_pos_right (floatMag_lt hx) (by positivity)
    _ = 2 ^ (24 + 253 + 149 * (p - 1)) := by rw [← pow_mul, ← pow_add]
    _ ≤ 2 ^ (214 * p) := Nat.pow_le_pow_right (by decide) (by omega)
    _ = (2 ^ 214) ^ p := pow_mul 2 214 p

include hroot in
theorem root_eq_zero_iff (hp0 : p ≠ 0) : floatMag r = 0 ↔ floatMag x = 0 := by
  rw [← pow_eq_zero_iff hp0, hroot, Nat.mul_eq_zero, or_iff_left (pow_ne_zero _ (by decide))]

include hx hr hp hroot in
/-- A function that gives a zero for a zero, and the exact root where `exactRoot` finds one, gives every root there is. -/
theorem value_of_exactRoot {v c : Word} (hzero : floatMag x = 0 → v = zeroLike c)
    (hne : floatMag x ≠ 0 → v = (exactRoot p r.msb (floatMag x)).getD c) :
    isFinite v = true ∧ floatInt v = floatInt r := by
  by_cases h0 : floatMag x = 0
  case pos =>
    have hr0 : floatInt r = 0 := floatInt_eq_zero.mpr ((root_eq_zero_iff hroot (by omega)).mpr h0)
    rw [hzero h0, hr0]
    exact ⟨isFinite_zeroLike c, floatInt_zeroLike c⟩
  case neg =>
    have hfound : exactRoot p r.msb (floatMag x) = some r := by
      rw [exactRoot_eq r.msb (by omega) (root_lt hx hp hroot) hroot, ofMag_self hr]
    rw [hne h0, hfound]
    exact ⟨hr, rfl⟩

end Roots

theorem fsqrt_of_pos {x : Word} (hx : isFinite x = true) (h0 : floatMag x ≠ 0) (hs : x.msb = false) :
    fsqrt x = (exactRoot 2 false (floatMag x)).getD (Config.fsqrt x) := by
  simp [fsqrt, hx, h0, hs]

theorem fcbrt_of_ne_zero {x : Word} (hx : isFinite x = true) (h0 : floatMag x ≠ 0) :
    fcbrt x = (exactRoot 3 x.msb (floatMag x)).getD (Config.fcbrt x) := by
  simp [fcbrt, hx, h0]

theorem fsqrt_value_of_root {x r : Word} (hx : isFinite x = true) (hr : isFinite r = true) (hx0 : 0 ≤ floatInt x)
    (hr0 : 0 ≤ floatInt r) (h : floatInt r ^ 2 = floatInt x * 2 ^ 149) :
    isFinite (fsqrt x) = true ∧ floatInt (fsqrt x) = floatInt r := by
  have hroot : floatMag r ^ 2 = floatMag x * floatOne ^ (2 - 1) := floatMag_pow_eq h
  refine value_of_exactRoot hx hr (by decide) hroot (fun h0 => if_pos h0) fun h0 => ?_
  have hsx : x.msb = false := by rw [msb_eq_decide_floatInt_neg h0, decide_eq_false hx0.not_gt]
  have hsr : r.msb = false := by
    rw [msb_eq_decide_floatInt_neg (mt (root_eq_zero_iff hroot (by decide)).mp h0), decide_eq_false hr0.not_gt]
  rw [hsr, fsqrt_of_pos hx h0 hsx]

/-- An odd power keeps the sign, so the cube root has the sign of its operand. -/
theorem fcbrt_value_of_root {x r : Word} (hx : isFinite x = true) (hr : isFinite r = true)
    (h : floatInt r ^ 3 = floatInt x * 2 ^ 298) : isFinite (fcbrt x) = true ∧ floatInt (fcbrt x) = floatInt r := by
  have hroot : floatMag r ^ 3 = floatMag x * floatOne ^ (3 - 1) := by
    rw [floatMag_pow_eq h, floatOne, ← pow_mul]
  refine value_of_exactRoot hx hr (by decide) hroot (fun h0 => if_pos h0) fun h0 => ?_
  have hneg : floatInt r < 0 ↔ floatInt x < 0 := by
    rw [← Odd.pow_neg_iff (by decide : Odd 3), h]
    exact ⟨fun hlt => neg_of_mul_neg_left hlt (by positivity), fun hlt => mul_neg_of_neg_of_pos hlt (by positivity)⟩
  have hs : r.msb = x.msb := by
    rw [msb_eq_decide_floatInt_neg h0, msb_eq_decide_floatInt_neg (mt (root_eq_zero_iff hroot (by decide)).mp h0),
      decide_eq_decide.mpr hneg]
  rw [hs, fcbrt_of_ne_zero hx h0]

/-- Settles O39, by the root `exactRoot` finds. -/
theorem rootResults : Obligations.RootResults :=
  ⟨sqrForms_run floatComputes_of_unary, cbrForms_run floatComputes_of_unary, fun _ _ => fsqrt_value_of_root,
    fun _ _ => fcbrt_value_of_root⟩

/-! ## POW -/

section Integral
variable {x : Word} {a : Int} (h : floatInt x = a * 2 ^ 149)
include h

theorem floatMag_of_integral : floatMag x = a.natAbs * floatOne := by
  rw [← floatInt_natAbs, h, Int.natAbs_mul]
  rfl

/-- The sign bit of an integral pattern is the sign of the integer, but for a zero's, which does not show in the integer. -/
theorem signed_of_integral : a = if x.msb then -(a.natAbs : Int) else a.natAbs := by
  have hsigned := floatInt_eq x
  rw [h, floatMag_of_integral h] at hsigned
  cases hs : x.msb <;> simp only [hs, if_true, Bool.false_eq_true, if_false] at hsigned ⊢ <;> omega

theorem smallInt_of_integral (hx : isFinite x = true) (ha : a.natAbs ≤ smallBound) : smallInt x = some a.natAbs := by
  rw [smallInt, floatMag_of_integral h, Nat.mul_mod_left, Nat.mul_div_cancel _ (by decide), if_pos ⟨hx, rfl, ha⟩]

end Integral

/-- A power of a signed magnitude is negative for a negative base and an odd exponent. -/
theorem signed_pow (neg : Bool) (m b : Nat) :
    (if neg then -(m : Int) else m) ^ b = if neg && b % 2 == 1 then -((m ^ b : Nat) : Int) else ((m ^ b : Nat) : Int) := by
  cases neg
  case false => simp
  case true =>
    rcases Nat.even_or_odd b with hb | hb
    · simp [hb.neg_pow, Nat.even_iff.mp hb]
    · simp [hb.neg_pow, Nat.odd_iff.mp hb]

theorem smallPow_one (negExponent : Bool) (b : Nat) : smallPow 1 negExponent b = some 1 := by simp [smallPow]

/-- A small power is found: its exponent is at most 24 unless the base is 0 or 1. -/
theorem smallPow_of_le {a b : Nat} {negExponent : Bool} (hneg : b ≠ 0 → negExponent = false) (h0 : a ≠ 0 ∨ b ≠ 0)
    (hle : a ^ b ≤ smallBound) : smallPow a negExponent b = some (a ^ b) := by
  by_cases hb : b = 0
  · subst hb
    simp [smallPow, h0.resolve_right (· rfl)]
  obtain rfl := hneg hb
  rcases Nat.lt_trichotomy a 1 with ha | rfl | ha
  · obtain rfl : a = 0 := by omega
    simp [smallPow, hb]
  · simp [smallPow]
  · have ha0 : a ≠ 0 := by omega
    have hb24 : b ≤ 24 := by
      refine (Nat.pow_le_pow_iff_right (by decide : 1 < 2)).mp ?_
      exact (Nat.pow_le_pow_left ha b).trans hle
    simp [smallPow, hb, hle.not_gt, hb24.not_gt, ha.ne', ha0]

theorem fpow_one {y : Word} (hy : isFinite y = true) : fpow y 0x3F800000 = y := if_pos ⟨rfl, hy⟩

/-- The power of two small integers, where it is one. -/
theorem fpow_of_smallPow {y x : Word} {a b n : Nat} (hone : x ≠ 0x3F800000) (hy : smallInt y = some a)
    (hx : smallInt x = some b) (hn : smallPow a x.msb b = some n) (hle : n ≤ smallBound) :
    isFinite (fpow y x) = true ∧ floatInt (fpow y x) = (if y.msb && b % 2 == 1 then -(n : Int) else n) * 2 ^ 149 := by
  have hpow : fpow y x =
      match n with
      | 0 => zeroLike (Config.fpow y x)
      | n => (ofMag (y.msb && b % 2 == 1) (n * floatOne)).getD (Config.fpow y x) := by
    simp only [fpow, hone, false_and, if_false, hy, hx, hn]
    cases n <;> rfl
  rw [hpow]
  cases n with
  | zero => simp [floatInt_zeroLike]
  | succ n => exact ofMag_small_getD hle _

theorem floatInt_one : floatInt 0x3F800000 = 1 * 2 ^ 149 := by decide

/-- The law of R324 for an integral base and exponent, given that `smallPow` finds the power of the magnitudes. -/
theorem fpow_integral {y x : Word} {a e : Int} (hy : isFinite y = true) (hx : isFinite x = true)
    (hya : floatInt y = a * 2 ^ 149) (hxe : floatInt x = e * 2 ^ 149) (ha : a.natAbs ≤ smallBound)
    (he : e.natAbs ≤ smallBound) (hle : a.natAbs ^ e.natAbs ≤ smallBound)
    (hpow : smallPow a.natAbs x.msb e.natAbs = some (a.natAbs ^ e.natAbs)) :
    isFinite (fpow y x) = true ∧ floatInt (fpow y x) = a ^ e.natAbs * 2 ^ 149 := by
  by_cases hone : x = 0x3F800000
  case pos =>
    subst hone
    obtain rfl : e = 1 := by rw [floatInt_one] at hxe; omega
    rw [fpow_one hy, Int.natAbs_one, pow_one]
    exact ⟨hy, hya⟩
  case neg =>
    rw [signed_of_integral hya, signed_pow]
    exact fpow_of_smallPow hone (smallInt_of_integral hya hy ha) (smallInt_of_integral hxe hx he) hpow hle

theorem fpow_natural {y x : Word} {a : Int} {b : Nat} (hy : isFinite y = true) (hx : isFinite x = true)
    (hya : floatInt y = a * 2 ^ 149) (hxb : floatInt x = b * 2 ^ 149) (ha : |a| ≤ 2 ^ 24) (hb : b ≤ 2 ^ 24)
    (hle : |a ^ b| ≤ 2 ^ 24) (h0 : a ≠ 0 ∨ b ≠ 0) :
    isFinite (fpow y x) = true ∧ floatInt (fpow y x) = a ^ b * 2 ^ 149 := by
  have ha' : a.natAbs ≤ smallBound := by rw [Int.abs_eq_natAbs] at ha; exact_mod_cast ha
  have hle' : a.natAbs ^ b ≤ smallBound := by
    rw [Int.abs_eq_natAbs, Int.natAbs_pow] at hle; exact_mod_cast hle
  have hsign : b ≠ 0 → x.msb = false := fun hb0 => by
    rw [msb_eq_decide_floatInt_neg, hxb]
    · exact decide_eq_false (by positivity : (0 : Int) ≤ b * 2 ^ 149).not_gt
    · rw [floatMag_of_integral hxb]
      exact Nat.mul_ne_zero hb0 (by decide)
  exact fpow_integral (e := b) hy hx hya hxb ha' hb hle' (smallPow_of_le hsign (h0.imp Int.natAbs_ne_zero.mpr id) hle')

/-- A base of 1 or -1 has a power at every small integer, a negative one too. -/
theorem fpow_unit {y x : Word} {a : Int} {b : Nat} (hy : isFinite y = true) (hx : isFinite x = true)
    (hya : floatInt y = a * 2 ^ 149) (hxb : floatInt x = -(b : Int) * 2 ^ 149) (ha : a = 1 ∨ a = -1) (hb : b ≤ 2 ^ 24) :
    isFinite (fpow y x) = true ∧ floatInt (fpow y x) = a ^ b * 2 ^ 149 := by
  have ha1 : a.natAbs = 1 := Int.natAbs_eq_iff.mpr ha
  have hb' : (-(b : Int)).natAbs = b := by omega
  have hlaw := fpow_integral hy hx hya hxb (by rw [ha1]; decide) (by rwa [hb']) (by rw [ha1, one_pow]; decide)
    (by rw [ha1, smallPow_one, one_pow])
  rwa [hb'] at hlaw

/-- Settles O40: `smallPow` finds every small power, and the sign is that of a signed power. -/
theorem powerResults : Obligations.PowerResults :=
  ⟨powForms_run floatComputes₂_of_pow, fun _ => fpow_one, fun _ _ _ _ => fpow_natural,
    fun _ _ _ _ hy hx hya hxb ha hb _ => fpow_unit hy hx hya hxb ha hb⟩

/-! ## FLOOR -/

theorem floatInt_dvd_of_integral {x : Word} (h : floatMag x % floatOne = 0) : (2 ^ 149 : Int) ∣ floatInt x := by
  rw [← Int.natAbs_dvd_natAbs, floatInt_natAbs]
  exact Nat.dvd_of_mod_eq_zero h

/-- Below the magnitudes that are integral anyway, an integral part is small. -/
theorem integralPart_lt {x : Word} (h : floatMag x % floatOne ≠ 0) : floatMag x / floatOne < 2 ^ 23 :=
  Nat.div_lt_of_lt_mul (Nat.lt_of_not_le fun hlarge => h (integral_of_large hlarge))

theorem isNaN_of_finite {x : Word} (hx : isFinite x = true) : isNaN x = false := by
  have hexp : floatExp x ≠ 255 := by simpa [isFinite] using hx
  simp [isNaN, hexp]

/-- A NaN or an infinity counts as more than a zero. -/
theorem isFinite_of_floatMag_eq_zero {x : Word} (h : floatMag x = 0) : isFinite x = true :=
  (isFinite_eq_of_floatMag_eq (h.trans (floatMag_zeroLike x).symm)).trans (isFinite_zeroLike x)

theorem ffloor_of_nan {x : Word} (hx : isNaN x = true) : isNaN (ffloor x) = true := by
  rw [ffloor, if_pos hx]
  split
  case isTrue h => exact h
  case isFalse => exact hx

theorem ffloor_of_infinite {x : Word} (hinf : isFinite x = false) (hnan : isNaN x = false) : ffloor x = x := by
  simp [ffloor, hnan, hinf]

theorem ffloor_of_integral {x : Word} (hx : isFinite x = true) (h : floatMag x % floatOne = 0) : ffloor x = x := by
  simp [ffloor, isNaN_of_finite hx, h]

/-- A fraction goes down to the integer below its magnitude, or up from it for a negative value. -/
theorem ffloor_of_fraction {x : Word} (hx : isFinite x = true) (h : floatMag x % floatOne ≠ 0) :
    ffloor x = (ofMag x.msb ((floatMag x / floatOne + if x.msb then 1 else 0) * floatOne)).getD x := by
  cases hs : x.msb <;> simp [ffloor, isNaN_of_finite hx, hx, h, hs]

theorem ffloor_value {x : Word} (hx : isFinite x = true) :
    isFinite (ffloor x) = true ∧ floatInt (ffloor x) = floatInt x / 2 ^ 149 * 2 ^ 149 := by
  by_cases h : floatMag x % floatOne = 0
  case pos =>
    rw [ffloor_of_integral hx h, Int.ediv_mul_cancel (floatInt_dvd_of_integral h)]
    exact ⟨hx, rfl⟩
  case neg =>
    have hsmall := integralPart_lt h
    have hle : floatMag x / floatOne + (if x.msb then 1 else 0) ≤ 2 ^ 24 := by split <;> omega
    obtain ⟨hfin, hval⟩ := ofMag_small_getD (neg := x.msb) hle x
    rw [ffloor_of_fraction hx h]
    refine ⟨hfin, hval.trans (congrArg (· * 2 ^ 149) ?_)⟩
    rw [floatInt_eq]
    cases x.msb
    · simp
    · have hfrac : floatMag x % 2 ^ 149 ≠ 0 := h
      simp only [if_true]; push_cast; omega

/-- Settles O42: an integral value is its own floor, and the floor of a fraction is small enough to be found. -/
theorem floorResults : Obligations.FloorResults := by
  refine ⟨floorForms_run floatComputes_of_unary, fun _ => ffloor_value, fun _ => ffloor_of_nan, ?_⟩
  rintro x (⟨hinf, hnan⟩ | hzero)
  · exact ffloor_of_infinite hinf hnan
  · have hmag := floatInt_eq_zero.mp hzero
    exact ffloor_of_integral (isFinite_of_floatMag_eq_zero hmag) (by rw [hmag, Nat.zero_mod])

/-! ## ROUND -/

/-- The integer ROUND goes to (R330), without its sign. -/
def roundedMag (x : Word) : Nat := floatMag x / floatOne + if roundsUp x then 1 else 0

theorem half_le_of_roundsUp {x : Word} (h : roundsUp x = true) : 2 ^ 149 ≤ 2 * (floatMag x % 2 ^ 149) := by
  simp only [roundsUp, floatOne, Bool.or_eq_true, Bool.and_eq_true, decide_eq_true_eq] at h
  omega

theorem le_half_of_not_roundsUp {x : Word} (h : roundsUp x = false) : 2 * (floatMag x % 2 ^ 149) ≤ 2 ^ 149 := by
  simp only [roundsUp, floatOne, Bool.or_eq_false_iff, decide_eq_false_iff_not] at h
  omega

/-- The fraction that is dropped or filled up is at most one half. -/
theorem roundedMag_near (x : Word) : 2 * |(roundedMag x : Int) * 2 ^ 149 - floatMag x| ≤ 2 ^ 149 := by
  rw [roundedMag, abs_eq_max_neg]
  cases h : roundsUp x
  case true =>
    have hhalf := half_le_of_roundsUp h
    simp only [if_true]; push_cast; omega
  case false =>
    have hhalf := le_half_of_not_roundsUp h
    simp only [Bool.false_eq_true, if_false]; push_cast; omega

/-- The rounded magnitude is a binary32 value: it is small, or the magnitude itself. -/
theorem ofMag_rounded {x : Word} (hx : isFinite x = true) : ∃ p, ofMag x.msb (roundedMag x * floatOne) = some p := by
  by_cases h : floatMag x % floatOne = 0
  case pos =>
    have hdown : roundsUp x = false := by simp [roundsUp, h]
    refine ⟨x, ?_⟩
    rw [roundedMag, hdown, if_neg (by decide), Nat.add_zero, Nat.div_mul_cancel (Nat.dvd_of_mod_eq_zero h), ofMag_self hx]
  case neg =>
    have hsmall := integralPart_lt h
    refine ofMag_small _ ?_
    rw [roundedMag]
    split <;> omega

theorem fround_of_zero {x : Word} (hx : isFinite x = true) (h : roundedMag x = 0) : fround x = zeroLike (Config.fround x) := by
  have hn : floatMag x / floatOne + (if roundsUp x then 1 else 0) = 0 := h
  simp only [fround, hx, Bool.not_true, Bool.false_eq_true, if_false, hn, if_true]

theorem fround_of_ne_zero {x : Word} (hx : isFinite x = true) (h : roundedMag x ≠ 0) :
    fround x = (ofMag x.msb (roundedMag x * floatOne)).getD x := by
  have hn : ¬ floatMag x / floatOne + (if roundsUp x then 1 else 0) = 0 := h
  simp only [fround, hx, Bool.not_true, Bool.false_eq_true, if_false, hn, roundedMag]

theorem fround_value {x : Word} (hx : isFinite x = true) :
    isFinite (fround x) = true ∧ floatInt (fround x) = (if x.msb then -(roundedMag x : Int) else roundedMag x) * 2 ^ 149 := by
  by_cases h : roundedMag x = 0
  case pos =>
    rw [fround_of_zero hx h, h]
    exact ⟨isFinite_zeroLike _, by simp [floatInt_zeroLike]⟩
  case neg =>
    obtain ⟨p, hp⟩ := ofMag_rounded hx
    obtain ⟨hfin, hmag, hs⟩ := ofMag_spec hp
    rw [fround_of_ne_zero hx h, hp, Option.getD_some, floatInt_eq, hmag, hs]
    exact ⟨hfin, by cases x.msb <;> simp⟩

theorem fround_near {x : Word} (hx : isFinite x = true) : 2 * |floatInt (fround x) - floatInt x| ≤ 2 ^ 149 := by
  have hnear := roundedMag_near x
  rw [(fround_value hx).2, floatInt_eq]
  cases x.msb
  case false => exact hnear
  case true =>
    rw [abs_sub_comm] at hnear
    rwa [if_pos rfl, if_pos rfl, neg_mul, neg_sub_neg]

/-- Settles O43: the result is `roundedMag` with the operand's sign. -/
theorem roundResults : Obligations.RoundResults :=
  ⟨roundForms_run floatComputes_of_unary, fun _ hx =>
    ⟨(fround_value hx).1, ⟨_, (fround_value hx).2.trans (mul_comm _ _)⟩, fround_near hx⟩⟩

end Sys2Proof.Proofs
end

section
/-! Blocks of memory (45_bulk_memory.md R350 to R352, R355, R356): MEMC, MEMF, LDREGS and STREGS once their operands are read.
The range checks come first and every read before the first write, so each fault is that of one check or one loop, and what is
left is what the loop has computed, with every flag UNDEF. -/

namespace Sys2Proof.Proofs

open Sys2Proof.Machine Sys2Proof.Certificates

/-! ## Blocks -/

theorem checkBlock_of_fits {a n : Nat} (h : BlockFits a n) : checkBlock a n = .ok () := checkBlock_ok h

theorem checkBlock_of_not_fits {a n : Nat} (h : ¬ BlockFits a n) : checkBlock a n = .error .memOutOfRange := by
  obtain ⟨hn, hpast⟩ := not_or.mp h
  exact checkBlock_error hn (Nat.not_le.mp hpast)

/-- A block whose every byte is defined holds some run of bytes. -/
theorem exists_bytesAt {s : State} {a n : Nat} (h : ∀ k < n, (s.byte? (a + k)).isSome) :
    ∃ bs : List Byte, bs.length = n ∧ BytesAt s a bs :=
  ⟨List.ofFn fun k : Fin n => (s.byte? (a + k)).get (h k k.isLt), List.length_ofFn, fun k hk => by simp⟩

theorem memBytes_of_bytesAt {s : State} {a n : Nat} {bs : List Byte} (hlen : bs.length = n) (h : BytesAt s a bs) :
    memBytes s.mem a n = .ok bs :=
  memBytes_ok hlen h

theorem memBytes_of_undefined {s : State} {a n : Nat} (h : ∃ k < n, s.byte? (a + k) = none) :
    memBytes s.mem a n = .error .readUndefined :=
  memBytes_error h

/-! ## The state a store of a block leaves -/

/-- The state MEMC, MEMF and STREGS leave: other memory, every flag UNDEF (R350). -/
def stored (s : State) (m : List Host.Cell) : State := State.undefFlags { s with mem := m }

section Stored
variable (s : State) (m : List Host.Cell) (a : Nat) (bs : List Byte)

@[simp] theorem byte?_stored (q : Nat) : (stored s m).byte? q = Store.get m q := rfl

theorem stored_flags : FlagsUndef s (stored s m) := State.undefFlags_undef (Nat.le_refl _)

theorem stored_unchanged : Unchanged [.mem, .flag] s (stored s m) :=
  ((s.setMem_unchanged m).mono (by simp)).trans ((State.undefFlags_unchanged _).mono (by simp))

theorem bytesAt_stored_putBytes : BytesAt (stored s (putBytes s.mem a bs)) a bs := fun k hk => by
  simp [get_putBytes, hk]

variable {a bs}

theorem byte?_stored_putBytes_outside {n q : Nat} (hlen : bs.length = n) (hq : q < a ∨ a + n ≤ q) :
    (stored s (putBytes s.mem a bs)).byte? q = s.byte? q := by
  rw [byte?_stored, get_putBytes, dif_neg (by omega), State.byte?]

/-- The block after a copy: under ForwardBytewise with the destination inside the source block, the bytes between the two
starts repeat (R351). -/
theorem byte?_stored_copyBlock (o : MemcOverlap) {d k : Nat} (h : BytesAt s a bs) (hk : k < bs.length) :
    (stored s (copyBlock o s.mem a d bs)).byte? (d + k) =
      if o = .forwardBytewise ∧ a < d then s.byte? (a + k % (d - a)) else s.byte? (a + k) := by
  rw [byte?_stored, get_copyBlock o s.mem a d bs h, if_pos (by omega), Nat.add_sub_cancel_left, State.byte?, State.byte?]

theorem byte?_stored_copyBlock_outside (o : MemcOverlap) {d n q : Nat} (h : BytesAt s a bs) (hlen : bs.length = n)
    (hq : q < d ∨ d + n ≤ q) : (stored s (copyBlock o s.mem a d bs)).byte? q = s.byte? q := by
  rw [byte?_stored, get_copyBlock o s.mem a d bs h, if_neg (by omega), State.byte?]

end Stored

/-! ## MEMC -/

section Copy
variable {src dst len : Source .w24} {s : State} {a d n : Addr}

/-- MEMC with its operands read: both range checks, the source block, the copy (R351). -/
theorem memcOp_of_reads (ha : readSource .w24 src s = .ok a) (hd : readSource .w24 dst s = .ok d)
    (hn : readSource .w24 len s = .ok n) :
    memcOp src dst len s = finish (do
      checkBlock a.toNat n.toNat
      checkBlock d.toNat n.toNat
      let bs ← memBytes s.mem a.toNat n.toNat
      return stored s (copyBlock s.params.memcOverlap s.mem a.toNat d.toNat bs)) := by
  rw [memcOp, ha, bind_ok, hd, bind_ok, hn, bind_ok]
  rfl

variable (ha : readSource .w24 src s = .ok a) (hd : readSource .w24 dst s = .ok d) (hn : readSource .w24 len s = .ok n)
include ha hd hn

theorem memcOp_outOfRange (h : ¬ BlockFits a.toNat n.toNat ∨ ¬ BlockFits d.toNat n.toNat) :
    memcOp src dst len s = .fault .memOutOfRange := by
  rw [memcOp_of_reads ha hd hn]
  by_cases hsrc : BlockFits a.toNat n.toNat
  case neg => rw [checkBlock_of_not_fits hsrc, bind_error, finish_error]
  case pos =>
    rw [checkBlock_of_fits hsrc, bind_ok, checkBlock_of_not_fits (h.resolve_left (not_not_intro hsrc)), bind_error,
      finish_error]

variable (hsrc : BlockFits a.toNat n.toNat) (hdst : BlockFits d.toNat n.toNat)
include hsrc hdst

theorem memcOp_undefined (h : ∃ k < n.toNat, s.byte? (a.toNat + k) = none) :
    memcOp src dst len s = .fault .readUndefined := by
  rw [memcOp_of_reads ha hd hn, checkBlock_of_fits hsrc, bind_ok, checkBlock_of_fits hdst, bind_ok,
    memBytes_of_undefined h, bind_error, finish_error]

theorem memcOp_next {bs : List Byte} (hlen : bs.length = n.toNat) (h : BytesAt s a.toNat bs) :
    memcOp src dst len s = .next (stored s (copyBlock s.params.memcOverlap s.mem a.toNat d.toNat bs)) := by
  rw [memcOp_of_reads ha hd hn, checkBlock_of_fits hsrc, bind_ok, checkBlock_of_fits hdst, bind_ok,
    memBytes_of_bytesAt hlen h, bind_ok, pure_eq_ok, finish_ok]

end Copy

/-- Settles O45: a source block that is defined holds some bytes `bs`, and what is left is the copy of `bs`. -/
theorem blockCopy : Obligations.BlockCopy := by
  unfold Obligations.BlockCopy
  refine memcForms_run fun {src dst len i} hrun s a d n ha hd hn => ?_
  rw [hrun]
  refine ⟨memcOp_outOfRange ha hd hn, fun hsrc hdst =>
    ⟨memcOp_undefined ha hd hn hsrc hdst, fun hdefined => ?copied⟩⟩
  obtain ⟨bs, hlen, hbs⟩ := exists_bytesAt hdefined
  exact ⟨_, memcOp_next ha hd hn hsrc hdst hlen hbs,
    fun k hk => byte?_stored_copyBlock s _ hbs (hlen ▸ hk),
    fun q hq => byte?_stored_copyBlock_outside s _ hbs hlen hq, stored_flags s _, stored_unchanged s _⟩

/-! ## MEMF -/

section Fill
variable {val : Source .w8} {addr len : Source .w24} {s : State} {v : Byte} {a n : Addr}

/-- MEMF with its operands read: the range check, the fill (R352). -/
theorem memfOp_of_reads (hv : readSource .w8 val s = .ok v) (ha : readSource .w24 addr s = .ok a)
    (hn : readSource .w24 len s = .ok n) :
    memfOp val addr len s = finish (do
      checkBlock a.toNat n.toNat
      return stored s (putBytes s.mem a.toNat (List.replicate n.toNat v))) := by
  rw [memfOp, hv, bind_ok, ha, bind_ok, hn, bind_ok]
  rfl

variable (hv : readSource .w8 val s = .ok v) (ha : readSource .w24 addr s = .ok a) (hn : readSource .w24 len s = .ok n)
include hv ha hn

theorem memfOp_outOfRange (h : ¬ BlockFits a.toNat n.toNat) : memfOp val addr len s = .fault .memOutOfRange := by
  rw [memfOp_of_reads hv ha hn, checkBlock_of_not_fits h, bind_error, finish_error]

theorem memfOp_next (h : BlockFits a.toNat n.toNat) :
    memfOp val addr len s = .next (stored s (putBytes s.mem a.toNat (List.replicate n.toNat v))) := by
  rw [memfOp_of_reads hv ha hn, checkBlock_of_fits h, bind_ok, pure_eq_ok, finish_ok]

end Fill

/-- Settles O46: the fill stores the run of `n` equal bytes. -/
theorem blockFill : Obligations.BlockFill := by
  unfold Obligations.BlockFill
  refine memfForms_run fun {val addr len i} hrun s v a n hv ha hn => ?_
  rw [hrun]
  refine ⟨memfOp_outOfRange hv ha hn, fun hfits => ⟨_, memfOp_next hv ha hn hfits, fun k hk => ?filled,
    fun q hq => byte?_stored_putBytes_outside s List.length_replicate hq, stored_flags s _, stored_unchanged s _⟩⟩
  have hbytes := bytesAt_stored_putBytes s a.toNat (List.replicate n.toNat v) k (by rwa [List.length_replicate])
  rwa [List.getElem_replicate] at hbytes

/-! ## Register ranges -/

/-- The register after the last one of a range (R355). -/
theorem regRange_end (r1 r2 : RegIx) :
    (regRange r1 r2).1 + (regRange r1 r2).2 = max r1.toNat r2.toNat + 1 := by
  simp only [regRange]
  omega

theorem checkRange_ok {first count : Nat} {s : State} (h : first + count ≤ s.params.numIntRegs) :
    checkRange first count s = .ok () := if_pos h

theorem checkRange_error {first count : Nat} {s : State} (h : ¬ first + count ≤ s.params.numIntRegs) :
    checkRange first count s = .error .regIndexOutOfRange := if_neg h

theorem checkBlock_of_le {a n : Nat} (h : a + n ≤ memSize) : checkBlock a n = .ok () := checkBlock_of_fits (.inr h)

/-- A register range is never empty, so its block is checked. -/
theorem checkBlock_regRange_error {a : Nat} {r1 r2 : RegIx} (h : memSize < a + (regRange r1 r2).2) :
    checkBlock a (regRange r1 r2).2 = .error .memOutOfRange :=
  checkBlock_error (Nat.succ_ne_zero _) h

/-! ## LDREGS -/

section Load
variable {r1 r2 : RegIx} {block : MemRef} {s : State} {addr : Addr}

/-- LDREGS with its address read: the range check, the block, the registers' existence, the writes (R355). -/
theorem ldregsOp_of_address (ha : block.address s = .ok addr) :
    ldregsOp r1 r2 block s = finish (do
      checkBlock addr.toNat (regRange r1 r2).2
      let bs ← memBytes s.mem addr.toNat (regRange r1 r2).2
      checkRange (regRange r1 r2).1 (regRange r1 r2).2 s
      return (loadRegs (regRange r1 r2).1 bs s).undefFlags) := by
  rw [ldregsOp, ha, bind_ok]

variable (ha : block.address s = .ok addr)
include ha

theorem ldregsOp_outOfRange (h : memSize < addr.toNat + (regRange r1 r2).2) :
    ldregsOp r1 r2 block s = .fault .memOutOfRange := by
  rw [ldregsOp_of_address ha, checkBlock_regRange_error h, bind_error, finish_error]

variable (hin : addr.toNat + (regRange r1 r2).2 ≤ memSize)
include hin

theorem ldregsOp_undefined (h : ∃ k < (regRange r1 r2).2, s.byte? (addr.toNat + k) = none) :
    ldregsOp r1 r2 block s = .fault .readUndefined := by
  rw [ldregsOp_of_address ha, checkBlock_of_le hin, bind_ok, memBytes_of_undefined h, bind_error, finish_error]

variable {bs : List Byte} (hlen : bs.length = (regRange r1 r2).2) (hbs : BytesAt s addr.toNat bs)
include hlen hbs

theorem ldregsOp_noRegister (h : s.params.numIntRegs ≤ max r1.toNat r2.toNat) :
    ldregsOp r1 r2 block s = .fault .regIndexOutOfRange := by
  have hend := regRange_end r1 r2
  rw [ldregsOp_of_address ha, checkBlock_of_le hin, bind_ok, memBytes_of_bytesAt hlen hbs, bind_ok,
    checkRange_error (by omega), bind_error, finish_error]

theorem ldregsOp_next (h : max r1.toNat r2.toNat < s.params.numIntRegs) :
    ldregsOp r1 r2 block s = .next (loadRegs (regRange r1 r2).1 bs s).undefFlags := by
  have hend := regRange_end r1 r2
  rw [ldregsOp_of_address ha, checkBlock_of_le hin, bind_ok, memBytes_of_bytesAt hlen hbs, bind_ok,
    checkRange_ok (by omega), bind_ok, pure_eq_ok, finish_ok]

end Load

/-- The registers do not depend on the flags. -/
theorem undefFlags_activeBank (s : State) : s.undefFlags.activeBank = s.activeBank :=
  State.activeBank_congr s.undefFlags_banks s.undefFlags_bank

theorem view_undefFlags (s : State) (w : Width) (j : RegIx) :
    s.undefFlags.view w j = s.view w j ∧ s.undefFlags.viewUndef w j = s.viewUndef w j :=
  ⟨State.view_congr s.undefFlags_params (undefFlags_activeBank s) w j,
    State.viewUndef_congr s.undefFlags_params (undefFlags_activeBank s) w j⟩

theorem float_undefFlags (s : State) (j : FloatIx) :
    s.undefFlags.float j = s.float j ∧ s.undefFlags.floatUndef j = s.floatUndef j :=
  ⟨State.float_congr (undefFlags_activeBank s) j, State.floatUndef_congr (undefFlags_activeBank s) j⟩

theorem otherBanksSame_undefFlags (s : State) : OtherBanksSame s s.undefFlags := ⟨rfl, fun _ _ => rfl⟩

section Loaded
variable {s : State} {i : Nat} {bs : List Byte}

theorem loadRegs_undefFlags : FlagsUndef s (loadRegs i bs s).undefFlags ∧
    Unchanged [.banks, .flag] s (loadRegs i bs s).undefFlags :=
  ⟨State.undefFlags_undef (loadRegs_draws_le i bs s),
    ((loadRegs_unchanged i bs s).mono (by simp)).trans ((State.undefFlags_unchanged _).mono (by simp))⟩

variable (hi : i + bs.length ≤ s.params.numIntRegs)
include hi

/-- Every register loaded is read back as its byte (R355). -/
theorem readReg_loadRegs (hbank : s.bank < s.banks.length) (k : Nat) (hk : k < bs.length) :
    readReg .w8 (BitVec.ofNat 5 (i + k)) (loadRegs i bs s).undefFlags = .ok bs[k] := by
  obtain ⟨hvalue, hdefined⟩ := loadRegs_view i bs s hi hbank k hk
  obtain ⟨hview, hundef⟩ := view_undefFlags (loadRegs i bs s) .w8 (BitVec.ofNat 5 (i + k))
  have hreg : (loadRegs i bs s).undefFlags.HasReg (BitVec.ofNat 5 (i + k)) :=
    (hasReg_congr (loadRegs_unchanged i bs s).1 _).mpr (hasReg_number (by omega))
  rw [readReg_ok hreg (hundef.trans hdefined), hview, hvalue]

theorem view_loadRegs_apart (w : Width) (j : RegIx)
    (h : ∀ k < bs.length, Apart s.params .w8 (BitVec.ofNat 5 (i + k)) w j) :
    (loadRegs i bs s).undefFlags.view w j = s.view w j ∧ (loadRegs i bs s).undefFlags.viewUndef w j = s.viewUndef w j := by
  obtain ⟨hviews, -, -⟩ := loadRegs_frame i bs s hi
  obtain ⟨hview, hundef⟩ := view_undefFlags (loadRegs i bs s) w j
  rw [hview, hundef]
  exact hviews w j h

theorem float_loadRegs (j : FloatIx) :
    (loadRegs i bs s).undefFlags.float j = s.float j ∧ (loadRegs i bs s).undefFlags.floatUndef j = s.floatUndef j := by
  obtain ⟨-, hfloats, -⟩ := loadRegs_frame i bs s hi
  obtain ⟨hfloat, hundef⟩ := float_undefFlags (loadRegs i bs s) j
  rw [hfloat, hundef]
  exact hfloats j

theorem otherBanksSame_loadRegs : OtherBanksSame s (loadRegs i bs s).undefFlags := by
  obtain ⟨-, -, hbanks⟩ := loadRegs_frame i bs s hi
  exact hbanks.trans (otherBanksSame_undefFlags _) ((loadRegs_unchanged i bs s).2 .bank (by decide))

end Loaded

/-- Settles O49: the outcome is that of the first check that fails, else the range loaded byte by byte. -/
theorem loadRegisters : Obligations.LoadRegisters := by
  unfold Obligations.LoadRegisters
  intro P
  have hP {r1 r2 : RegIx} {block : MemRef} {i : Instr} (hrun : exec i = ldregsOp r1 r2 block) : P r1 r2 block i := by
    intro s addr ha
    rw [hrun]
    refine ⟨ldregsOp_outOfRange ha, fun hin => ⟨ldregsOp_undefined ha hin, fun bs hlen hbs =>
      ⟨ldregsOp_noRegister ha hin hlen hbs, fun hexist => ?loaded⟩⟩⟩
    have hi : (regRange r1 r2).1 + bs.length ≤ s.params.numIntRegs := hlen ▸ (regRange_end r1 r2).trans_le hexist
    exact ⟨_, ldregsOp_next ha hin hlen hbs hexist, readReg_loadRegs hi,
      fun w j hapart => view_loadRegs_apart hi w j (hlen ▸ hapart), float_loadRegs hi, otherBanksSame_loadRegs hi,
      loadRegs_undefFlags⟩
  exact ⟨fun _ _ _ => hP rfl, fun _ _ _ => hP rfl⟩

/-! ## STREGS -/

section Save
variable {r1 r2 : RegIx} {block : MemRef} {s : State} {addr : Addr}

/-- STREGS with its address read: the range check, the registers in order, the store (R356). -/
theorem stregsOp_of_address (ha : block.address s = .ok addr) :
    stregsOp r1 r2 block s = finish (do
      checkBlock addr.toNat (regRange r1 r2).2
      let bs ← storedRegs s (regRange r1 r2).1 (regRange r1 r2).2
      return stored s (putBytes s.mem addr.toNat bs)) := by
  rw [stregsOp, ha, bind_ok]
  rfl

variable (ha : block.address s = .ok addr)
include ha

theorem stregsOp_outOfRange (h : memSize < addr.toNat + (regRange r1 r2).2) :
    stregsOp r1 r2 block s = .fault .memOutOfRange := by
  rw [stregsOp_of_address ha, checkBlock_regRange_error h, bind_error, finish_error]

variable (hin : addr.toNat + (regRange r1 r2).2 ≤ memSize)
include hin

theorem stregsOp_fault {e : Fault} (h : storedRegs s (regRange r1 r2).1 (regRange r1 r2).2 = .error e) :
    stregsOp r1 r2 block s = .fault e := by
  rw [stregsOp_of_address ha, checkBlock_of_le hin, bind_ok, h, bind_error, finish_error]

theorem stregsOp_next {bs : List Byte} (h : storedRegs s (regRange r1 r2).1 (regRange r1 r2).2 = .ok bs) :
    stregsOp r1 r2 block s = .next (stored s (putBytes s.mem addr.toNat bs)) := by
  rw [stregsOp_of_address ha, checkBlock_of_le hin, bind_ok, h, bind_ok, pure_eq_ok, finish_ok]

end Save

/-- Settles O50: the read of the registers decides between its first fault and the store of what it read. -/
theorem storeRegisters : Obligations.StoreRegisters := by
  unfold Obligations.StoreRegisters
  intro P
  have hP {r1 r2 : RegIx} {block : MemRef} {i : Instr} (hrun : exec i = stregsOp r1 r2 block) : P r1 r2 block i := by
    intro s addr ha
    rw [hrun]
    refine ⟨stregsOp_outOfRange ha,
      fun hin k e hk hreads hfault => stregsOp_fault ha hin (storedRegs_error hk hreads hfault),
      fun hin bs hlen hreads => ?saved⟩
    exact ⟨_, stregsOp_next ha hin (storedRegs_ok hlen hreads), bytesAt_stored_putBytes s _ bs,
      fun q hq => byte?_stored_putBytes_outside s hlen hq, stored_flags s _, stored_unchanged s _⟩
  exact ⟨fun _ _ _ => hP rfl, fun _ _ _ => hP rfl⟩

end Sys2Proof.Proofs
end

section
/-! FIND (45_bulk_memory.md R353, R354): what a search answers, the address found or UNDEF in the address register, and the
fault of an UNDEF byte or of a pattern that no zero byte ends. -/

namespace Sys2Proof.Proofs

open Sys2Proof.Machine Sys2Proof.Certificates

/-! ## The state a search leaves -/

theorem found_some {s : State} {a : RegIx} (ha : s.HasReg a) (n : Nat) :
    RegWritten .w24 a (BitVec.ofNat 24 n) s (s.found a (some n)) ∧ FlagsUndef s (s.found a (some n)) ∧
      Unchanged [.banks, .flag] s (s.found a (some n)) :=
  setView_undefFlags ha .w24 _

theorem found_none {s : State} {a : RegIx} (ha : s.HasReg a) :
    RegUndef .w24 a s (s.found a none) ∧ FlagsUndef s (s.found a none) ∧ Unchanged [.banks, .flag] s (s.found a none) :=
  setViewFree_undefFlags ha .w24

/-! ## A byte -/

section FindByte
variable {a : RegIx} {value : Source .w8} {s : State} {d : Addr} {b : Byte}

/-- FIND of a byte with its operands read: the search up to the top of memory, then the register (R353). -/
theorem findByteOp_of_reads (hd : readReg .w24 a s = .ok d) (hb : readSource .w8 value s = .ok b) :
    findByteOp a value s = finish (do
      let r ← findByte s.mem b (memSize - d.toNat) d.toNat
      return s.found a r) := by
  rw [findByteOp, hd, bind_ok, hb, bind_ok]

variable (hd : readReg .w24 a s = .ok d) (hb : readSource .w8 value s = .ok b)
include hd hb

theorem findByteOp_next {r : Option Nat} (h : findByte s.mem b (memSize - d.toNat) d.toNat = .ok r) :
    findByteOp a value s = .next (s.found a r) := by
  rw [findByteOp_of_reads hd hb, h, bind_ok, pure_eq_ok, finish_ok]

theorem findByteOp_fault {e : Fault} (h : findByte s.mem b (memSize - d.toNat) d.toNat = .error e) :
    findByteOp a value s = .fault e := by
  rw [findByteOp_of_reads hd hb, h, bind_error, finish_error]

end FindByte

/-- Settles O47: each case is one answer of the search, which reads `memSize - start` bytes. -/
theorem findByteResults : Obligations.FindByteResults := by
  unfold Obligations.FindByteResults
  intro P
  have hP {a : RegIx} {value : Source .w8} {i : Instr} (hrun : exec i = findByteOp a value) : P a value i := by
    intro s d b hd hb
    obtain ⟨ha, -, -⟩ := readReg_eq_ok hd
    rw [hrun]
    exact ⟨fun n hskips hin hfound =>
        ⟨_, findByteOp_next hd hb (findByte_found hskips hfound (by omega)), found_some ha _⟩,
      fun hskips => ⟨_, findByteOp_next hd hb (findByte_none hskips), found_none ha⟩,
      fun n hskips hin hundef => findByteOp_fault hd hb (findByte_undefined hskips hundef (by omega))⟩
  exact ⟨fun _ _ => hP rfl, fun _ _ => hP rfl⟩

/-! ## One comparison with a pattern -/

section Comparison
variable {s : State} {a : Nat} {pat : List Byte}

theorem bytesAt_take {j : Nat} (hj : j < pat.length) (h : BytesAt s a (pat.take j)) (k : Nat) (hk : k < j) :
    Store.get s.mem (a + k) = some (pat[k]'(hk.trans hj)) := by
  have hbyte := h k (by rw [List.length_take]; omega)
  rwa [List.getElem_take] at hbyte

theorem matchesAt_of_bytesAt (h : BytesAt s a pat) : matchesAt s.mem a pat = .ok true := matchesAt_true h

theorem matchesAt_of_differsAt (h : DiffersAt s a pat) : matchesAt s.mem a pat = .ok false := by
  obtain ⟨j, hj, hagree, c, hc, hne⟩ := h
  exact matchesAt_false hj (bytesAt_take hj hagree) hc hne

theorem matchesAt_of_undefinedAt (h : UndefinedAt s a pat) : matchesAt s.mem a pat = .error .readUndefined := by
  obtain ⟨j, hj, hagree, hundef⟩ := h
  exact matchesAt_undefined hj (bytesAt_take hj hagree) hundef

end Comparison

/-! ## The pattern and the search -/

theorem scanPattern_ok {s : State} {p : Addr} {pat : List Byte} (hnonzero : ∀ c ∈ pat, c ≠ 0)
    (hbytes : BytesAt s p.toNat (pat ++ [0])) (hin : p.toNat + pat.length < memSize) : scanPattern p s = .ok pat :=
  readPattern_ok hnonzero hbytes (by omega)

theorem scanPattern_undefined {s : State} {p : Addr} {n : Nat}
    (hnonzero : ∀ k < n, ∃ c, s.byte? (p.toNat + k) = some c ∧ c ≠ 0) (hin : p.toNat + n < memSize)
    (hundef : s.byte? (p.toNat + n) = none) : scanPattern p s = .error .readUndefined :=
  readPattern_undefined hnonzero hundef (by omega)

theorem scanPattern_unterminated {s : State} {p : Addr}
    (h : ∀ q, p.toNat ≤ q → q < memSize → ∃ c, s.byte? q = some c ∧ c ≠ 0) : scanPattern p s = .error .memOutOfRange :=
  readPattern_unterminated fun k hk => h (p.toNat + k) (Nat.le_add_right _ _) (by omega)

section FindPattern
variable {a : RegIx} {pattern : MemRef} {s : State} {p : Addr}

/-- FIND of a pattern with the pattern's address read: the scan, the start, the search of the addresses at which the pattern
fits (R354). -/
theorem findPatternOp_of_address (hp : pattern.address s = .ok p) :
    findPatternOp a pattern s = finish (do
      let pat ← scanPattern p s
      let start ← readReg .w24 a s
      let r ← findPattern s.mem pat (memSize + 1 - pat.length - start.toNat) start.toNat
      return s.found a r) := by
  rw [findPatternOp, hp, bind_ok]

variable (hp : pattern.address s = .ok p)
include hp

theorem findPatternOp_fault_scan {e : Fault} (hscan : scanPattern p s = .error e) :
    findPatternOp a pattern s = .fault e := by
  rw [findPatternOp_of_address hp, hscan, bind_error, finish_error]

variable {pat : List Byte} (hscan : scanPattern p s = .ok pat)
include hscan

theorem findPatternOp_fault_start {e : Fault} (hstart : readReg .w24 a s = .error e) :
    findPatternOp a pattern s = .fault e := by
  rw [findPatternOp_of_address hp, hscan, bind_ok, hstart, bind_error, finish_error]

variable {d : Addr} (hd : readReg .w24 a s = .ok d)
include hd

theorem findPatternOp_fault {e : Fault}
    (h : findPattern s.mem pat (memSize + 1 - pat.length - d.toNat) d.toNat = .error e) :
    findPatternOp a pattern s = .fault e := by
  rw [findPatternOp_of_address hp, hscan, bind_ok, hd, bind_ok, h, bind_error, finish_error]

theorem findPatternOp_next {r : Option Nat}
    (h : findPattern s.mem pat (memSize + 1 - pat.length - d.toNat) d.toNat = .ok r) :
    findPatternOp a pattern s = .next (s.found a r) := by
  rw [findPatternOp_of_address hp, hscan, bind_ok, hd, bind_ok, h, bind_ok, pure_eq_ok, finish_ok]

end FindPattern

/-- Settles O48: the scan faults or gives the pattern; after it each case is one answer of the search, which compares at every
address from the start on at which the pattern fits. -/
theorem findPatternResults : Obligations.FindPatternResults := by
  unfold Obligations.FindPatternResults
  intro P
  have hP {a : RegIx} {pattern : MemRef} {i : Instr} (hrun : exec i = findPatternOp a pattern) : P a pattern i := by
    intro s p hp
    rw [hrun]
    refine ⟨fun d pat hd hnonzero hbytes hin => ?search,
      fun pat hnonzero hbytes hin e hstart => findPatternOp_fault_start hp (scanPattern_ok hnonzero hbytes hin) hstart,
      fun n hnonzero hin hundef => findPatternOp_fault_scan hp (scanPattern_undefined hnonzero hin hundef),
      fun h => findPatternOp_fault_scan hp (scanPattern_unterminated h)⟩
    have hscan : scanPattern p s = .ok pat := scanPattern_ok hnonzero hbytes hin
    obtain ⟨ha, -, -⟩ := readReg_eq_ok hd
    refine ⟨fun n hdiffers hmatch hfits => ?found, fun n hdiffers hundef hfits => ?undefined, fun hdiffers => ?missing⟩
    case found =>
      have hfound := findPattern_found (fuel := memSize + 1 - pat.length - d.toNat)
        (fun k hk => matchesAt_of_differsAt (hdiffers k hk)) (matchesAt_of_bytesAt hmatch) (by omega)
      exact ⟨_, findPatternOp_next hp hscan hd hfound, found_some ha _⟩
    case undefined =>
      exact findPatternOp_fault hp hscan hd (findPattern_error
        (fun k hk => matchesAt_of_differsAt (hdiffers k hk)) (matchesAt_of_undefinedAt hundef) (by omega))
    case missing =>
      have hnone := findPattern_none (fuel := memSize + 1 - pat.length - d.toNat)
        (fun k hk => matchesAt_of_differsAt (hdiffers k (by omega)))
      exact ⟨_, findPatternOp_next hp hscan hd hnone, found_none ha⟩
  exact ⟨fun _ _ => hP rfl, fun _ _ => hP rfl⟩

end Sys2Proof.Proofs
end

section
/-! EX, BANKSEL, RAND, SETVAR and GETVAR (46_misc_system.md R381 to R384, R386, R387): the state each leaves once its operands
are read. What it leaves unchanged and that every flag is UNDEF is read off `Done`, but for RAND, whose two kinds of form change
less than the family does. -/

namespace Sys2Proof.Proofs

open Sys2Proof.Machine Sys2Proof.Certificates

/-! ## EX -/

/-- A view that shares no storage with the one written reads as before. -/
theorem readReg_of_apart {w w' : Width} {i j : RegIx} {v : BitVec w.bits} {s t : State} (h : RegWritten w i v s t)
    (hparams : t.params = s.params) (hapart : Apart s.params w i w' j) : readReg w' j t = readReg w' j s := by
  obtain ⟨hview, hundef⟩ := h.apart w' j hapart
  simp only [readReg, checkReg, hparams, hview, hundef]

section Exchange
variable {w : Width} {a b : RegIx} {s : State} {x y : BitVec w.bits}

/-- The state EX leaves: the write to `A`, the write to `B`, every flag UNDEF (R381). -/
def exchanged (w : Width) (a b : RegIx) (x y : BitVec w.bits) (s : State) : State :=
  ((s.setView w a y).setView w b x).undefFlags

theorem hasReg_setView {i j : RegIx} {v : BitVec w.bits} : (s.setView w i v).HasReg j ↔ s.HasReg j :=
  hasReg_congr (s.setView_params w i v) j

theorem exOp_next (hx : readReg w a s = .ok x) (hy : readReg w b s = .ok y) :
    exOp w a b s = .next (exchanged w a b x y s) := by
  obtain ⟨ha, -, -⟩ := readReg_eq_ok hx
  obtain ⟨hb, -, -⟩ := readReg_eq_ok hy
  rw [exOp, hx, bind_ok, hy, bind_ok, writeReg_ok ha, bind_ok, writeReg_ok (hasReg_setView.mpr hb), bind_ok, pure_eq_ok,
    finish_ok, exchanged]

variable (hb : s.HasReg b)
include hb

/-- The second write, seen from the state after the first. -/
theorem exchanged_written : RegWritten w b x (s.setView w a y) (exchanged w a b x y s) := by
  obtain ⟨hwritten, -, -⟩ := setView_undefFlags (hasReg_setView.mpr hb) w x
  exact hwritten

/-- Between views that share no storage EX is a swap: the second write leaves what the first one wrote. -/
theorem exchanged_reads (ha : s.HasReg a) (hfits : s.Fits w) (hapart : Apart s.params w b w a) :
    readReg w a (exchanged w a b x y s) = .ok y ∧ readReg w b (exchanged w a b x y s) = .ok x := by
  have hfirst : RegWritten w a y s (s.setView w a y) := State.setView_written ha w y
  have hsecond : RegWritten w b x (s.setView w a y) (exchanged w a b x y s) := exchanged_written hb
  have hparams : (exchanged w a b x y s).params = (s.setView w a y).params := State.setView_params _ w b x
  refine ⟨?first, ?second⟩
  case first =>
    calc readReg w a (exchanged w a b x y s)
      _ = readReg w a (s.setView w a y) := readReg_of_apart hsecond hparams (s.setView_params w a y ▸ hapart)
      _ = .ok y := readReg_of_written hfirst (hasReg_setView.mpr ha) hfits
  case second =>
    have hfits' : (s.setView w a y).Fits w :=
      fits_of_written hfirst ((s.setView_unchanged w a y).mono (by simp [dataFields])) hfits
    exact readReg_of_written hsecond ((hasReg_congr hparams b).mpr (hasReg_setView.mpr hb)) hfits'

end Exchange

/-- Settles O51: the two writes give the two `RegWritten`, and a swap where the second leaves the first. -/
theorem exchangeResults : Obligations.ExchangeResults := by
  unfold Obligations.ExchangeResults
  intro P
  have hP {w : Width} {i : RegIx → RegIx → Instr} (hrun : ∀ a b, exec (i a b) = exOp w a b) : P w i := by
    intro a b s x y hx hy
    obtain ⟨ha, -, -⟩ := readReg_eq_ok hx
    obtain ⟨hb, -, -⟩ := readReg_eq_ok hy
    have hnext := exOp_next hx hy
    have hdone := Done.of_ex hnext
    rw [hrun]
    exact ⟨exchanged w a b x y s, s.setView w a y, hnext, State.setView_written ha w y, s.setView_unchanged w a y,
      exchanged_written hb, hdone.flags nofun, hdone.unchanged nofun, exchanged_reads hb ha⟩
  exact ⟨hP fun _ _ => rfl, hP fun _ _ => rfl, hP fun _ _ => rfl, hP fun _ _ => rfl⟩

/-! ## BANKSEL -/

section BankSelect
variable {index : Source .w8} {s : State} {n : Byte} (hn : readSource .w8 index s = .ok n)
include hn

theorem bankselOp_next (h : n.toNat < s.params.numBanks) :
    bankselOp index s = .next (State.undefFlags { s with bank := n.toNat }) := by
  rw [bankselOp, hn, bind_ok, setBank, if_pos h, bind_ok, pure_eq_ok, finish_ok]

theorem bankselOp_outOfRange (h : s.params.numBanks ≤ n.toNat) : bankselOp index s = .fault .bankOutOfRange := by
  rw [bankselOp, hn, bind_ok, setBank, if_neg (Nat.not_lt.mpr h), bind_error, finish_error]

end BankSelect

/-- Settles O52, by whether the bank exists. -/
theorem bankSelectResults : Obligations.BankSelectResults := by
  unfold Obligations.BankSelectResults
  intro P
  have hP {index : Source .w8} {i : Instr} (hrun : exec i = bankselOp index) : P index i := by
    intro s n hn
    rw [hrun]
    refine ⟨fun hexists => ?selected, bankselOp_outOfRange hn⟩
    have hnext := bankselOp_next hn hexists
    have hdone := Done.of_banksel hnext
    exact ⟨_, hnext, rfl, hdone.flags nofun, hdone.unchanged nofun⟩
  exact ⟨fun _ => hP rfl, fun _ => hP rfl⟩

/-! ## RAND -/

/-- The value RAND draws, at the width of the form (R383; log 8). -/
abbrev randomBits (w : Width) (s : State) : BitVec w.bits := (Config.randValue s.rng s.draws).setWidth w.bits

theorem randOp_next {w : Width} {a : RegIx} {s : State} (ha : s.HasReg a) :
    randOp w a s = .next (s.tick.setView w a (randomBits w s)).undefFlags := by
  rw [randOp, writeReg_ok (s := s.tick) ha, bind_ok, pure_eq_ok, finish_ok]

/-- RAND is a write of a register after one value has been drawn; the draw changes no piece of state. -/
theorem randOp_completes {w : Width} {a : RegIx} {s : State} (ha : s.HasReg a) :
    ∃ t, randOp w a s = .next t ∧ RegWritten w a (randomBits w s) s t ∧ s.draws < t.draws ∧ FlagsUndef s t ∧
      Unchanged [.banks, .flag] s t := by
  obtain ⟨hwritten, ⟨hflag, hmarks⟩, hunchanged⟩ := setView_undefFlags (s := s.tick) ha w (randomBits w s)
  have hdrawn : s.draws < (s.tick.setView w a (randomBits w s)).draws := s.tick.setView_draws_le w a (randomBits w s)
  exact ⟨_, randOp_next ha, hwritten.congr_left rfl rfl rfl, hdrawn.trans (Nat.lt_succ_self _),
    ⟨hflag.mono (Nat.le_succ _) (Nat.le_refl _), hmarks⟩, ((Effect.tick s).unchanged.mono (by simp)).trans hunchanged⟩

theorem reseed_unchanged (s : State) (v : Word) : Unchanged [.rng] s (s.reseed v) := by
  apply Unchanged.of <;> simp

theorem randSeedOp_next {seed : Source .w32} {s : State} {v : Word} (hv : readSource .w32 seed s = .ok v) :
    randSeedOp seed s = .next (s.reseed v).undefFlags := by
  rw [randSeedOp, hv, bind_ok, pure_eq_ok, finish_ok]

theorem randSeedOp_completes {seed : Source .w32} {s : State} {v : Word} (hv : readSource .w32 seed s = .ok v) :
    ∃ t, randSeedOp seed s = .next t ∧ FlagsUndef s t ∧ Unchanged [.rng, .flag] s t :=
  ⟨_, randSeedOp_next hv, State.undefFlags_undef (Nat.le_succ s.draws),
    ((reseed_unchanged s v).mono (by simp)).trans ((State.undefFlags_unchanged _).mono (by simp))⟩

/-- Settles O53: the four widths run `randOp`, the two seed forms `randSeedOp`. -/
theorem randomResults : Obligations.RandomResults := by
  unfold Obligations.RandomResults
  intro P Q
  have hP {w : Width} {i : RegIx → Instr} (hrun : ∀ a, exec (i a) = randOp w a) : P w i := by
    intro a s ha
    rw [hrun]
    exact randOp_completes ha
  have hQ {seed : Source .w32} {i : Instr} (hrun : exec i = randSeedOp seed) : Q seed i := by
    intro s v hv
    rw [hrun]
    exact randSeedOp_completes hv
  exact ⟨hP fun _ => rfl, hP fun _ => rfl, hP fun _ => rfl, hP fun _ => rfl, fun _ => hQ rfl, fun _ => hQ rfl⟩

/-! ## SETVAR and GETVAR -/

theorem setvarOp_next {index value : Source .w32} {s : State} {k v : Word} (hk : readSource .w32 index s = .ok k)
    (hv : readSource .w32 value s = .ok v) : setvarOp index value s = .next (s.setVar k v).undefFlags := by
  rw [setvarOp, hk, bind_ok, hv, bind_ok, pure_eq_ok, finish_ok]

section HighMemory
variable (s : State) (k v : Word)

theorem get_setVar_self : Store.get (s.setVar k v).undefFlags.hmem k.toNat = some v :=
  Store.get_put_self s.hmem k.toNat v

theorem get_setVar_ne {k' : Nat} (h : k' ≠ k.toNat) :
    Store.get (s.setVar k v).undefFlags.hmem k' = Store.get s.hmem k' :=
  Store.get_put_ne s.hmem v h

end HighMemory

theorem getVar_written {k v : Word} {s : State} (h : Store.get s.hmem k.toNat = some v) : getVar k s = .ok v := by
  simp [getVar, h]

theorem getVar_unwritten {k : Word} {s : State} (h : Store.get s.hmem k.toNat = none) :
    getVar k s = .error .hmemUnwritten := by
  simp [getVar, h]

section GetVariable
variable {a : RegIx} {index : Source .w32} {s : State} {k : Word} (hk : readSource .w32 index s = .ok k)
include hk

theorem getvarOp_unwritten (h : Store.get s.hmem k.toNat = none) : getvarOp a index s = .fault .hmemUnwritten := by
  rw [getvarOp, hk, bind_ok, getVar_unwritten h, bind_error, finish_error]

theorem getvarOp_next {v : Word} (h : Store.get s.hmem k.toNat = some v) (ha : s.HasReg a) :
    getvarOp a index s = .next (s.setView .w32 a v).undefFlags := by
  rw [getvarOp, hk, bind_ok, getVar_written h, bind_ok, writeReg_ok (w := .w32) ha, bind_ok, pure_eq_ok, finish_ok]

end GetVariable

/-- Where a value written can be read back, the register reads as what GETVAR found. -/
theorem getvarI_reads {s : State} {k v : Word} {a : RegIx} (h : Store.get s.hmem k.toNat = some v) (ha : s.HasReg a)
    (hfits : s.Fits .w32) : ∃ t, exec (.getvarI a k) s = .next t ∧ readReg .w32 a t = .ok v := by
  obtain ⟨hwritten, -, hparams, -⟩ := setView_undefFlags ha .w32 v
  exact ⟨_, getvarOp_next (index := .imm k) rfl h ha,
    readReg_of_written hwritten ((hasReg_congr hparams a).mpr ha) hfits⟩

/-- GETVAR after SETVAR of the same key finds the key written, and SETVAR has left the registers. -/
theorem getvar_after_setvar {s : State} (k v : Word) {a : RegIx} (ha : s.HasReg a) (hfits : s.Fits .w32) :
    ∃ t u, exec (.setvarII k v) s = .next t ∧ exec (.getvarI a k) t = .next u ∧ readReg .w32 a u = .ok v := by
  obtain ⟨u, hget, hread⟩ := getvarI_reads (s := (s.setVar k v).undefFlags) (get_setVar_self s k v) ha hfits
  exact ⟨_, u, setvarOp_next (index := .imm k) (value := .imm v) rfl rfl, hget, hread⟩

/-- Settles O55: SETVAR is a write of the store, GETVAR a read of it and a write of a register. -/
theorem variableResults : Obligations.VariableResults := by
  unfold Obligations.VariableResults
  intro P Q
  have hP {index value : Source .w32} {i : Instr} (hrun : exec i = setvarOp index value) : P index value i := by
    intro s k v hk hv
    have hnext := setvarOp_next hk hv
    have hdone := Done.of_setvar hnext
    rw [hrun]
    exact ⟨_, hnext, get_setVar_self s k v, fun _ => get_setVar_ne s k v, hdone.flags nofun, hdone.unchanged nofun⟩
  have hQ {a : RegIx} {index : Source .w32} {i : Instr} (hrun : exec i = getvarOp a index) : Q a index i := by
    intro s k hk
    rw [hrun]
    exact ⟨getvarOp_unwritten hk, fun v hget ha => ⟨_, getvarOp_next hk hget ha, setView_undefFlags ha .w32 v⟩⟩
  exact ⟨fun _ _ => hP rfl, fun _ _ => hP rfl, fun _ _ => hP rfl, fun _ _ => hP rfl, fun _ _ => hQ rfl, fun _ _ => hQ rfl,
    fun _ k v _ => getvar_after_setvar k v⟩

end Sys2Proof.Proofs
end

section
/-! The host boundary (46_misc_system.md R385, R388 to R394): WAIT, SMUL, VCL, VDL and INT record a host event, PLAY is refused,
BREAK halts the machine. -/

namespace Sys2Proof.Proofs

open Sys2Proof.Machine

/-! ## WAIT -/

theorem waitOp_next {count : Source .w16} {s : State} {ms : BitVec 16} (hms : readSource .w16 count s = .ok ms) :
    waitOp count s = .next (s.record (.wait ms)).undefFlags := by
  rw [waitOp, hms, bind_ok, pure_eq_ok, finish_ok]

/-- Settles O54: the event is recorded and the flags become UNDEF. -/
theorem waitResults : Obligations.WaitResults := by
  unfold Obligations.WaitResults
  intro P
  have hP {count : Source .w16} {i : Instr} (hrun : exec i = waitOp count) : P count i := by
    intro s ms hms
    have hnext := waitOp_next hms
    have hdone := Done.of_wait hnext
    rw [hrun]
    exact ⟨_, hnext, rfl, hdone.flags nofun, hdone.unchanged nofun⟩
  exact ⟨fun _ => hP rfl, fun _ => hP rfl⟩

/-! ## SMUL -/

section Smul
variable {w : Width} {src : Source w} {s : State} {x : BitVec w.bits} (hx : readSource w src s = .ok x)
include hx

theorem smulOp_zero (h : x.toNat = 0) : smulOp w src s = .next (s.record .runtimeErrorSmul) := by
  have hzero : x = 0 := BitVec.eq_of_toNat_eq (h.trans BitVec.toNat_zero.symm)
  simp only [smulOp, hx, if_pos hzero]

theorem smulOp_nonzero (h : x.toNat ≠ 0) : smulOp w src s = .refused .semanticsNotInSource := by
  have hnonzero : x ≠ 0 := fun he => h (he ▸ BitVec.toNat_zero)
  simp only [smulOp, hx, if_neg hnonzero]

end Smul

/-- Settles O56, by whether the source is zero. -/
theorem smulResults : Obligations.SmulResults := by
  unfold Obligations.SmulResults
  intro P
  have hP {w : Width} {src : Source w} {i : Instr} (hrun : exec i = smulOp w src) : P w src i := by
    intro s x hx
    rw [hrun]
    exact ⟨fun hzero => ⟨_, smulOp_zero hx hzero, rfl, (Effect.record s _).unchanged⟩, smulOp_nonzero hx⟩
  exact ⟨fun _ _ => hP rfl, fun _ _ => hP rfl, fun _ _ => hP rfl, fun _ _ => hP rfl,
    fun _ _ => hP rfl, fun _ _ => hP rfl, fun _ _ => hP rfl, fun _ _ => hP rfl⟩

/-! ## PLAY -/

/-- Settles O57: no PLAY encoding has an operand layout, so the instruction has no other outcome (R389). -/
theorem playIsRefused : Obligations.PlayIsRefused := fun _ => rfl

/-! ## VCL and VDL -/

theorem inFootprint_iff {p : Params} {q : Nat} :
    inFootprint p q = true ↔ ∃ r ∈ p.hostMemFootprint, r.1 ≤ q ∧ q ≤ r.2 := by
  simp [inFootprint, inRanges]

theorem byte?_graphics (s : State) (e : HostEvent) (q : Nat) :
    (s.graphics e).byte? q = if inFootprint s.params q then none else s.byte? q :=
  Store.get_drop (inFootprint s.params) s.mem q

theorem byte?_graphics_inside {s : State} {q : Nat} (h : ∃ r ∈ s.params.hostMemFootprint, r.1 ≤ q ∧ q ≤ r.2)
    (e : HostEvent) : (s.graphics e).byte? q = none := by
  rw [byte?_graphics, if_pos (inFootprint_iff.mpr h)]

theorem byte?_graphics_outside {s : State} {q : Nat} (h : ¬ ∃ r ∈ s.params.hostMemFootprint, r.1 ≤ q ∧ q ≤ r.2)
    (e : HostEvent) : (s.graphics e).byte? q = s.byte? q := by
  rw [byte?_graphics, if_neg (mt inFootprint_iff.mp h)]

/-- What VCL and VDL have in common: they differ in the event only (R390, R391). -/
def graphicsOp (event : Byte → HostEvent) (src : Source .w8) (s : State) : Out :=
  finish (readSource .w8 src s >>= fun b => return s.graphics (event b))

theorem vclOp_eq_graphicsOp (src : Source .w8) : vclOp src = graphicsOp .manualClearBackBuffer src := rfl

theorem vdlOp_eq_graphicsOp (src : Source .w8) : vdlOp src = graphicsOp .manualUpdateBackBuffer src := rfl

theorem graphicsOp_next {event : Byte → HostEvent} {src : Source .w8} {s : State} {b : Byte}
    (hb : readSource .w8 src s = .ok b) : graphicsOp event src s = .next (s.graphics (event b)) := by
  rw [graphicsOp, hb, bind_ok, pure_eq_ok, finish_ok]

/-- The frame of a graphics call; the two families have one, so either stands for both. -/
theorem graphics_frame (s : State) (e : HostEvent) :
    FlagsUndef s (s.graphics e) ∧ Unchanged [.mem, .events, .flag] s (s.graphics e) := by
  have hdone : Done .vcl s (s.graphics e) := Done.of_graphics rfl id
  exact ⟨hdone.flags nofun, hdone.unchanged nofun⟩

/-- Settles O58: a byte is taken away exactly where `inFootprint` holds. -/
theorem graphicsResults : Obligations.GraphicsResults := by
  unfold Obligations.GraphicsResults
  intro P
  have hP {event : Byte → HostEvent} {src : Source .w8} {i : Instr} (hrun : exec i = graphicsOp event src) :
      P event src i := by
    intro s b hb
    rw [hrun]
    exact ⟨_, graphicsOp_next hb, rfl, fun _ hin => byte?_graphics_inside hin _, fun _ hout => byte?_graphics_outside hout _,
      graphics_frame s (event b)⟩
  exact ⟨fun n => hP (vclOp_eq_graphicsOp (.imm n)), fun r => hP (vclOp_eq_graphicsOp (.place (.reg r))),
    fun n => hP (vdlOp_eq_graphicsOp (.imm n)), fun r => hP (vdlOp_eq_graphicsOp (.place (.reg r)))⟩

/-! ## INT and BREAK -/

theorem exec_int (r : RegIx) (n arg : Byte) (s : State) : exec (.int r n arg) s = .next (s.afterInterrupt n arg r) := rfl

/-- Settles O59: the handler's state is adopted, which keeps the parameters and the record and meets the invariant (log 14). -/
theorem interruptResults : Obligations.InterruptResults := fun r n arg s =>
  ⟨s.afterInterrupt n arg r, exec_int r n arg s, rfl, rfl, adopt_inv (s := s.record (.interrupt n arg r))⟩

theorem exec_brk (s : State) : exec .brk s = .next s.halt := rfl

/-- Settles O60: BREAK is the halt of 60_exceptions.md R422. -/
theorem breakHalts : Obligations.BreakHalts := fun s =>
  ⟨s.halt, exec_brk s, s.halt_running, drawn_free s s.halt (Nat.lt_succ_self s.draws), (Effect.halt s).unchanged⟩

end Sys2Proof.Proofs
end

section
/-! The halt (60_exceptions.md R422): what a step answers for a machine that is not running, the one case the equations of
`step` by the decoder's answer leave out. -/

namespace Sys2Proof.Proofs

open Sys2Proof.Machine

/-- A halted machine fetches and decodes nothing (40_dispatch.md R160; log 15). -/
theorem step_halted {s : State} (hhalt : s.running = false) : step s = .next s := by
  have hstop : ¬ s.running = true := Bool.eq_false_iff.mp hhalt
  rw [step, if_neg hstop]

/-- Settles O7: it is the halted case of `step`. -/
theorem haltedIsFinal : Obligations.HaltedIsFinal := fun _ hhalt => step_halted hhalt

end Sys2Proof.Proofs
end
